-- ==== Sys2Proof/Word.lean ====
section
/-!
DEFINITION. The word type of the port windows (R187, 9.7) and the numbered things of the part: PUs, tasks,
partitions, priorities, channels, event lines (00_scope, figures summary).
-/

namespace Sys2Proof

/-- A word of a port window, an entry word or a resume word: 64 bits (R1, R202). -/
abbrev Word := BitVec 64

/-- A processing unit, and the unit port of the same number: 0 to 7. -/
abbrev Pu := Fin 8

/-- A task id, the index of its record: 0 to 127 (R1). -/
abbrev TaskId := Fin 128

/-- A partition: 0 to 7 (R29). -/
abbrev Partition := Fin 8

/-- A priority: 0, the most urgent, to 7 (R1). -/
abbrev Priority := Fin 8

/-- An event channel: 0 to 47 (R103). -/
abbrev ChannelId := Fin 48

/-- An event line EV0 to EV15 (R111). -/
abbrev Line := Fin 16

/-- A window index of a plan bank: 0 to 23 (R150). -/
abbrev WindowIndex := Fin 24

/-- Every number below 8, in ascending order: all PUs, all partitions, all priorities. -/
def all8 : List (Fin 8) := [0, 1, 2, 3, 4, 5, 6, 7]

end Sys2Proof
end

