-- ==== Sys2Proof/Syntax.lean ====
section
/-!
DEFINITION. The commands of the part: one constructor per row of spec/opcode_table.json. A row is one step of the part,
whole and indivisible (95_what_each_step_holds). The 39 commands of the unit ports carry the port alone: their arguments
are the captured words of that port (R188, R189, log 2).
-/

namespace Sys2Proof

/-- The parts of one tick, each taken whole by its owner and not ordered against the others (R149, R173): the Frame
Unit's, the Delay List's, and one charge for each PU. -/
inductive TickPart
  | frame
  | delay
  | charge (p : Pu)
deriving DecidableEq, Repr

/-- The operand of a row that takes a request: what the request is for and, where several decisions have such a request next
to be taken, whose it is, counted from 0 at the earliest (R113, log 3). -/
structure Nth (α : Type) where
  of : α
  nth : Nat
deriving DecidableEq, Repr

/-- Why the Selector judges an urgent queue: a handler entered it (R86), or its PU re-evaluates it (R90). -/
inductive UrgentKind
  | arrival
  | reEvaluation
deriving DecidableEq, Repr

inductive Instr
  /-- CREATE, R15 and R16. -/
  | create (port : Pu)
  /-- START, R17. -/
  | start (port : Pu)
  /-- SUSPEND, R18 and R19. -/
  | suspend (port : Pu)
  /-- RESUME, R20. -/
  | resume (port : Pu)
  /-- RETIRE, R21 and R22. -/
  | retire (port : Pu)
  /-- SET_PRIORITY, R23. -/
  | setPriority (port : Pu)
  /-- SET_AFFINITY, R24. -/
  | setAffinity (port : Pu)
  /-- READ_TASK, R25. -/
  | readTask (port : Pu)
  /-- HALT_PARTITION, R42. -/
  | haltPartition (port : Pu)
  /-- RELEASE_PARTITION, R43. -/
  | releasePartition (port : Pu)
  /-- PURGE_PARTITION, R44 to R47. -/
  | purgePartition (port : Pu)
  /-- READ_PARTITION, R48. -/
  | readPartition (port : Pu)
  /-- JOIN, R72. -/
  | join (port : Pu)
  /-- LEAVE, R73. -/
  | leave (port : Pu)
  /-- HANDOVER, R60 to R63. -/
  | handover (port : Pu)
  /-- READ_PU, R77. -/
  | readPu (port : Pu)
  /-- RESET_PU, R75. -/
  | resetPu (port : Pu)
  /-- POST, R116. -/
  | post (port : Pu)
  /-- READ_CHANNEL, R121. -/
  | readChannel (port : Pu)
  /-- BIND, R119 and R120. -/
  | bind (port : Pu)
  /-- MASK, R117. -/
  | mask (port : Pu)
  /-- UNMASK, R118. -/
  | unmask (port : Pu)
  /-- YIELD, R131 and R132. -/
  | yield (port : Pu)
  /-- WAIT, R133 to R135. -/
  | wait (port : Pu)
  /-- DELAY, R136. -/
  | delay (port : Pu)
  /-- FINISH, R137. -/
  | finish (port : Pu)
  /-- READ_SELF, R138. -/
  | readSelf (port : Pu)
  /-- CONFIGURE, R148. -/
  | configure (port : Pu)
  /-- START_SCHEDULE, R156. -/
  | startSchedule (port : Pu)
  /-- STOP_SCHEDULE, R162 and R163. -/
  | stopSchedule (port : Pu)
  /-- WRITE_WINDOW, R151. -/
  | writeWindow (port : Pu)
  /-- SET_PLAN_LENGTH, R152. -/
  | setPlanLength (port : Pu)
  /-- ARM_PLAN_SWITCH, R153. -/
  | armPlanSwitch (port : Pu)
  /-- READ_PLAN, R154. -/
  | readPlan (port : Pu)
  /-- SET_BUDGET, R182 and R183. -/
  | setBudget (port : Pu)
  /-- READ_STATUS, R200. -/
  | readStatus (port : Pu)
  /-- CLEAR_CONDITIONS, R198. -/
  | clearConditions (port : Pu)
  /-- SET_ATTN_ENABLE, R199. -/
  | setAttnEnable (port : Pu)
  /-- SYSTEM_RESET, R201. -/
  | systemReset (port : Pu)
  /-- UNDEFINED_COMMAND_KIND, R189 (a): the captured KIND names no command. -/
  | undefinedCommandKind (port : Pu)
  /-- GO_DISCARDED, R188 (b): a write to GO. -/
  | goDiscarded (port : Pu)
  /-- GO_ACCEPTED, R188 (a): a write to GO. -/
  | goAccepted (port : Pu)
  /-- WINDOW_FIELD_WRITE, R187: a write of `value` at word select `sel` (SB_ADDR7 to SB_ADDR3) of the port's window. -/
  | windowFieldWrite (port : Pu) (sel : BitVec 5) (value : Word)
  /-- HARD_RESET: power-on, or RESET# goes low (R206). -/
  | hardReset
  /-- EVENT_LINE_EDGE, R111: line EVn stands at `level` and has held it (R206). -/
  | eventLineEdge (n : Line) (level : Bool)
  /-- FSYNC_EDGE, R160: FSYNC stands at `level` and has held it (R206). -/
  | fsyncEdge (level : Bool)
  /-- TICK, R149. `held` names the parts whose owners take this tick at a later step (log 4). -/
  | tick (held : List TickPart)
  /-- HANDOVER_DEADLINE_EXPIRY of PU p, R69. -/
  | handoverDeadlineExpiry (p : Pu)
  /-- DELAY_LIST_EXPIRY, R141: the Delay List takes an outstanding tick. -/
  | delayListExpiry
  /-- WINDOW_END, R158: the Frame Unit takes an outstanding tick outside GAP. -/
  | windowEnd
  /-- GAP_LIMIT, R159: the Frame Unit takes an outstanding tick in GAP. -/
  | gapLimit
  /-- BUDGET_LIMIT_REACHED, R176: the Budget Monitor takes an outstanding charge of PU p. -/
  | budgetLimitReached (p : Pu)
  /-- HALT_REQUEST, R40: the halt request that task t's budget made for partition k (R178). -/
  | haltRequest (k : Partition) (t : TaskId)
  /-- PLACE_REQUEST for task t, R36. -/
  | placeRequest (t : Nth TaskId)
  /-- URGENT_ARRIVAL, R87 to R90: an urgent arrival at PU p, or a re-evaluation of its urgent queue. -/
  | urgentArrival (p : Pu) (kind : Nth UrgentKind)
  /-- WINDOW_RE_EVALUATION of PU p, R164 to R167. -/
  | windowReEvaluation (p : Nth Pu)
  /-- BUDGET_FRAME_START, R180. -/
  | budgetFrameStart
  /-- RESET_RISE, R206: RESET# rises while the lines stand at these levels. -/
  | resetRise (events : BitVec 16) (fsync : Bool)
deriving DecidableEq, Repr

end Sys2Proof
end

