-- ==== Sys2Proof/Decode.lean ====
section
/-!
DEFINITION. Words of the opcode table. No row of spec/opcode_table.json gives a bit, so no word spells a command
(log 24). The kind codes of R202 stand in the captured command of a port and are read by the meanings.
-/

namespace Sys2Proof

/-- No row of the table has bits: no word spells a command (log 24). -/
def decodeTableWord (_nbits _w : Nat) : Option Instr := none

end Sys2Proof
end

