-- ==== Sys2Proof/Config.lean ====
section
/-!
DEFINITION. What the manual leaves open, as a constant without a body (log 6), and the figures the part fixes. No proof can
see a value of an opaque constant, so a claim holds whatever the part does there.
-/

namespace Sys2Proof.Config

/-- Log 6. A key that orders the PU Engines when all of them are handed a halt or a STOP request (R40, R162): the
engine of the smaller key takes the request first. The first argument is the draw's number. -/
opaque freeEngineKey : Nat → Pu → Nat

/-- The depth of a displacement stack (R91). -/
def stackDepth : Nat := 4

/-- The part code shown by READ_STATUS (R200). -/
def partCode : Nat := 0x5108

/-- The revision shown by READ_STATUS (R200). -/
def revision : Nat := 3

/-- The largest delay or timeout, in ticks (R133, R136). -/
def maxDelay : Nat := 16777215

end Sys2Proof.Config
end

