-- ==== Sys2Proof/Machine/State.lean ====
section
/-!
DEFINITION. The state of the part, as plain data, and the state after a hard reset.
-/

namespace Sys2Proof.Machine

/-! ### Task records (Chapter 1) -/

/-- The nine task states (R9). -/
inductive TaskState
  | free | dormant | ready | claimed | running | displaced | waiting | held | suspended
deriving DecidableEq, Repr

inductive TaskClass
  | normal | handler
deriving DecidableEq, Repr

inductive Privilege
  | user | manager | supervisor
deriving DecidableEq, Repr

/-- Why a task's wait ended or did not take place (R4). -/
inductive WaitResult
  | signalled | timeout | elapsed | interrupted | channelReset
deriving DecidableEq, Repr

/-- Why a task is SUSPENDED or HELD (R5). -/
inductive StopReason
  | command | budget | stranded
deriving DecidableEq, Repr

inductive BudgetAction
  | note | hold | stop | halt
deriving DecidableEq, Repr

/-- One task record (R1), with the Budget Monitor's limit mark (R172). The default values are the free-record values. -/
structure TaskRecord where
  state : TaskState := .free
  partition : Partition := 0
  priority : Priority := 0
  cls : TaskClass := .normal
  privilege : Privilege := .user
  affinity : BitVec 8 := 0
  entryWord : Word := 0
  resumeWord : Word := 0
  waitChannel : Option ChannelId := none
  wakeTick : Option (BitVec 32) := none
  waitResult : Option WaitResult := none
  stopReason : Option StopReason := none
  budgetLimit : BitVec 16 := 0
  budgetWarn : BitVec 16 := 0
  budgetAction : BudgetAction := .note
  budgetUsed : BitVec 16 := 0
  warnFlag : Bool := false
  overrunCount : BitVec 8 := 0
  dispatchCount : BitVec 16 := 0
  lastPu : Option Pu := none
  limitMark : Bool := false
deriving DecidableEq, Repr

/-- The free-record values (R1). -/
def TaskRecord.freeRecord : TaskRecord := {}

/-! ### Partition records (Chapter 2) -/

inductive HaltReason
  | command
  | budget (t : TaskId)
deriving DecidableEq, Repr

/-- A purge in flight: its count and deferred task (R44), the port that waits for its answer while one does (R46, R47),
and whether it has reached its end and waits for the deferred task alone (R46 (b)). -/
structure Purge where
  count : Nat
  deferred : Option TaskId
  port : Option Pu
  ended : Bool
deriving DecidableEq, Repr

/-- One partition record (R29). The halt reason is present exactly while halted is set; `purge` is present exactly while
purging is set. -/
structure PartitionRecord where
  halted : Option HaltReason := none
  purge : Option Purge := none
  memberCount : Nat := 0
  readyCount : Nat := 0
deriving DecidableEq, Repr

/-! ### PU Engines (Chapters 3 and 4) -/

/-- The switch reasons (R56). -/
inductive SwitchReason
  | preempt | window | urgent | unwind | suspend | retire | budget | halt | affinity | stop
deriving DecidableEq, Repr

/-- The pending outgoing destinations (R52). HELD carries stop reason BUDGET (R5). -/
inductive Dest
  | free
  | suspended (why : StopReason)
  | held
  | displaced
  | readyHead
deriving DecidableEq, Repr

/-- The outgoing task of a switch with its pending destination (R52). -/
structure Outgoing where
  task : TaskId
  dest : Dest
deriving DecidableEq, Repr

/-- What an engine holds in SWITCHING (R52): the reason, the outgoing task if there is one, the claimed task if a claim
has been made, the limit in force and the time that remains, in units of 4 µs (R68). -/
structure Switch where
  reason : SwitchReason
  outgoing : Option Outgoing
  claimed : Option TaskId
  limit : BitVec 8
  remaining : BitVec 8
deriving DecidableEq, Repr

/-- The engine states with the slots that are filled in each (R52, R53). -/
inductive EngineState
  | offline
  | idle
  | switching (sw : Switch)
  | running (t : TaskId)
  | faulted
deriving DecidableEq, Repr

/-- One PU Engine (R52). `stack` is the displacement stack with its TOP FIRST (R91). `swreqRises` counts the rises of SWREQ
since the last reset, so that a fall and a new rise at one decision show (R54, log 19). -/
structure Engine where
  st : EngineState := .offline
  stack : List TaskId := []
  faultCount : BitVec 8 := 0
  deferralCount : BitVec 8 := 0
  swreqRises : Nat := 0
deriving DecidableEq, Repr

/-! ### Event channels (Chapter 5) -/

inductive ChannelMode
  | signal | pulse
deriving DecidableEq, Repr

inductive EdgeSel
  | rising | falling | both
deriving DecidableEq, Repr

inductive Disposition
  | hold | drop
deriving DecidableEq, Repr

/-- One channel record (R103). The default values are those after a hard reset (R104). `waiters` is head first. -/
structure Channel where
  mode : ChannelMode := .signal
  edge : EdgeSel := .rising
  masked : Bool := true
  disposition : Disposition := .drop
  pendingCount : BitVec 8 := 0
  saturated : Bool := false
  postRights : BitVec 8 := 0
  arrivalCount : BitVec 16 := 0
  waiters : List TaskId := []
deriving DecidableEq, Repr

/-! ### Frame Unit (Chapter 7) -/

/-- An entry of a window's map (R150). -/
inductive MapEntry
  | part (k : Partition)
  | opened
  | idle
deriving DecidableEq, Repr

structure Window where
  length : BitVec 16 := 1
  map : Vector MapEntry 8 := Vector.replicate 8 .idle
deriving DecidableEq, Repr

/-- A plan bank: a window count of 0 to 24 and 24 windows (R150). -/
structure Bank where
  count : Fin 25 := 0
  windows : Vector Window 24 := Vector.replicate 24 {}
deriving DecidableEq, Repr

inductive BankId
  | a | b
deriving DecidableEq, Repr

inductive SyncMode
  | free | sync
deriving DecidableEq, Repr

inductive FrameState
  | stopped | armed | framing | gap
deriving DecidableEq, Repr

/-- The fields of the Frame Unit (R147). The default values are those after a hard reset. -/
structure FrameUnit where
  tickPeriod : BitVec 16 := 0
  tickCounter : BitVec 32 := 0
  handoverLimit : BitVec 8 := 25
  syncMode : SyncMode := .free
  gapLimit : BitVec 16 := 1000
  bankA : Bank := {}
  bankB : Bank := {}
  active : BankId := .a
  countdown : BitVec 8 := 0
  state : FrameState := .stopped
  windowIndex : WindowIndex := 0
  ticksRemaining : BitVec 16 := 0
  gapTicks : BitVec 16 := 0
  frameCounter : BitVec 16 := 0
  earlySync : BitVec 8 := 0
deriving DecidableEq, Repr

/-! ### Port Unit and Condition Unit (Chapter 9) -/

/-- The STATUS codes of a written response (R190). -/
inductive Status
  | done | refusedState | refusedRange | refusedProtect | noResource | stale | notRunning | puFaulted | aborted
deriving DecidableEq, Repr

/-- The OUTCOME codes (R190). SUPERSEDED is a bit beside them (R202). -/
inductive OutcomeCode
  | none | deferred | continue | switched | idle
deriving DecidableEq, Repr

/-- A captured command: a kind and six argument words (R187). -/
structure Captured where
  kind : BitVec 8
  args : Vector Word 6
deriving DecidableEq, Repr

/-- The port states; the captured command is present while BUSY (R187). -/
inductive PortState
  | idle
  | busy (c : Captured)
  | done
deriving DecidableEq, Repr

/-- One port record (R187). `status` absent is the STATUS 0 of a response not yet written. -/
structure Port where
  kind : BitVec 8 := 0
  args : Vector Word 6 := Vector.replicate 6 0
  state : PortState := .idle
  status : Option Status := .none
  outcome : OutcomeCode := .none
  superseded : Bool := false
  res : Vector Word 6 := Vector.replicate 6 0
  overrun : Bool := false
deriving DecidableEq, Repr

/-- The violation counter and the last-violation record (R195). -/
structure Violation where
  count : BitVec 8 := 0
  lastPu : Option Pu := none
  lastKind : BitVec 8 := 0
  lastTask : Option TaskId := none
deriving DecidableEq, Repr

/-- The condition word and the enable mask: seventeen flags each (R196). -/
structure Conditions where
  word : BitVec 17 := 0
  enable : BitVec 17 := 0
deriving DecidableEq, Repr

/-- RESET# and the former levels of the event lines and of FSYNC (R206, log 11). -/
structure Pins where
  resetLow : Bool := false
  events : BitVec 16 := 0
  fsync : Bool := false
deriving DecidableEq, Repr

/-! ### Requests made and not yet taken -/

/-- A request one block has made of another and that has not been taken (log 3). -/
inductive Request
  /-- A place request for a task, to the Selector (R36). -/
  | place (t : TaskId)
  /-- An urgent arrival at a PU (R86) or a re-evaluation of its urgent queue (R90), to the Selector. -/
  | urgent (p : Pu) (kind : UrgentKind)
  /-- A window re-evaluation, to an engine (R164). It carries the PU's entry in the former window, which place requests judge
  until it is taken (R167, log 30): `none` when the frame state entered FRAMING from STOPPED or ARMED. -/
  | window (p : Pu) (former : Option MapEntry)
  /-- A halt request with reason BUDGET, to Partition Control (R178). -/
  | halt (k : Partition) (t : TaskId)
  /-- A frame start, to the Budget Monitor (R180). -/
  | budgetFrameStart
  /-- A tick, to the Frame Unit (R149). -/
  | tickFrame
  /-- A tick, to the Delay List, with the counter value it carries (R141). -/
  | tickDelay (counter : BitVec 32)
  /-- A tick, to the Budget Monitor: the charge of one PU (R173). -/
  | charge (p : Pu)
deriving DecidableEq, Repr

/-! ### The state of the part -/

/-- The state of the part. `ready` is indexed by partition and priority, each queue head first; `urgent` by PU, each queue
front first. `requests` holds groups: the requests of one decision in the order in which they are to be taken (log 3).
`pending` and `freeIndex` are the model's own (log 1, log 23). -/
structure State where
  tasks : Vector TaskRecord 128
  partitions : Vector PartitionRecord 8
  ready : Vector (Vector (List TaskId) 8) 8
  urgent : Vector (List TaskId) 8
  engines : Vector Engine 8
  channels : Vector Channel 48
  delayList : List TaskId
  frame : FrameUnit
  ports : Vector Port 8
  violation : Violation
  conds : Conditions
  pins : Pins
  requests : List (List Request)
  pending : List Instr
  freeIndex : Nat
deriving DecidableEq, Repr

/-- No event stops the part: every misuse has a stated answer (R190), and a FAULTED PU (R69) is state. -/
inductive Fault
deriving DecidableEq, Repr

/-- Why the model gives a command no meaning. -/
inductive Refusal
  /-- Raised by `exec` for a command that has no meaning yet, by its mnemonic; safe. No arm raises it. -/
  | notModelled (mnemonic : String)
deriving DecidableEq, Repr

/-- The part right after a hard reset, RESET# high: R12, R29, R31, R52, R84, R104, R139, R147, R172, R187, R195, R196;
the pins' levels are log 11, the model's own fields log 23. -/
def State.reset : State where
  tasks := Vector.replicate 128 TaskRecord.freeRecord
  partitions := Vector.replicate 8 {}
  ready := Vector.replicate 8 (Vector.replicate 8 [])
  urgent := Vector.replicate 8 []
  engines := Vector.replicate 8 {}
  channels := Vector.replicate 48 {}
  delayList := []
  frame := {}
  ports := Vector.replicate 8 {}
  violation := {}
  conds := {}
  pins := {}
  requests := []
  pending := []
  freeIndex := 0

end Sys2Proof.Machine
end

