-- ==== Sys2Proof/Machine/Flags.lean ====
section
/-!
DEFINITION. Saturating counts, the condition word and its flags, and the two kinds of output line: SWREQ and ATTN.
-/

namespace Sys2Proof.Machine

/-- A saturating count stops at its upper bound (00_scope, numbers and units). -/
def satInc {w : Nat} (x : BitVec w) : BitVec w := if x = BitVec.allOnes w then x else x + 1

/-- The seventeen flags of the condition word (R196). -/
inductive Cond
  | puFault (p : Pu)
  | budgetWarn
  | budgetLimit
  | partitionHalted
  | earlySync
  | syncLost
  | protect
  | pendingSaturated
  | urgentDeferred
  | portOverrun
deriving DecidableEq, Repr

/-- The flag's bit in the condition word (R205). -/
def Cond.bit : Cond → Nat
  | .puFault p => p.val
  | .budgetWarn => 8
  | .budgetLimit => 9
  | .partitionHalted => 10
  | .earlySync => 11
  | .syncLost => 12
  | .protect => 13
  | .pendingSaturated => 14
  | .urgentDeferred => 15
  | .portOverrun => 16

/-- The condition word with this flag alone set. -/
def Cond.mask (c : Cond) : BitVec 17 := 1#17 <<< c.bit

/-- A flag is latched: it is set and stays set (R196). -/
def State.latch (c : Cond) (s : State) : State :=
  { s with conds := { s.conds with word := s.conds.word ||| c.mask } }

/-- Whether the flag is set in the condition word. -/
def State.latched (s : State) (c : Cond) : Bool := s.conds.word.getLsbD c.bit

/-- ATTN is asserted while at least one flag is both set and enabled (R197). -/
def State.attn (s : State) : Bool := s.conds.word &&& s.conds.enable != 0

/-- The level of SWREQp: asserted while, and only while, p is SWITCHING (R54). The engine's `swreqRises` tells one assertion from
the next (log 19). -/
def State.swreq (s : State) (p : Pu) : Bool :=
  match s.engines[p].st with
  | .switching _ => true
  | _ => false

end Sys2Proof.Machine
end

