-- ==== Sys2Proof/Machine/Ops.lean ====
section
/-!
DEFINITION. The named operations over the records: reading and writing a task, a partition, a queue, an engine, a channel;
the moves of a task between its places; the requests one block makes of another.
-/

namespace Sys2Proof.Machine

/-! ### Tables -/

/-- The table with entry `i` replaced. -/
def put {α : Type} {n : Nat} (v : Vector α n) (i : Fin n) (x : α) : Vector α n := v.set i.val x i.isLt

/-- Every task id in ascending order. -/
def allTasks : List TaskId := List.finRange 128

/-! ### Task records and the partition counts -/

def State.task (s : State) (t : TaskId) : TaskRecord := s.tasks[t]

def State.part (s : State) (k : Partition) : PartitionRecord := s.partitions[k]

def State.setPart (k : Partition) (r : PartitionRecord) (s : State) : State :=
  { s with partitions := put s.partitions k r }

/-- How much a record adds to the member count of its partition: 1 unless it is FREE (R30 (a)). -/
def TaskRecord.memberWeight (r : TaskRecord) : Nat := if r.state = .free then 0 else 1

/-- How much a record adds to the ready count of its partition: 1 if it is READY (R30 (b)). -/
def TaskRecord.readyWeight (r : TaskRecord) : Nat := if r.state = .ready then 1 else 0

/-- The counts without this record. -/
def uncount (r : TaskRecord) (v : Vector PartitionRecord 8) : Vector PartitionRecord 8 :=
  let c := v[r.partition]
  put v r.partition
    { c with memberCount := c.memberCount - r.memberWeight, readyCount := c.readyCount - r.readyWeight }

/-- The counts with this record. -/
def count (r : TaskRecord) (v : Vector PartitionRecord 8) : Vector PartitionRecord 8 :=
  let c := v[r.partition]
  put v r.partition
    { c with memberCount := c.memberCount + r.memberWeight, readyCount := c.readyCount + r.readyWeight }

/-- The one way a task record changes: Partition Control's counts follow the change the Task Table reports (R30). The new
record is counted before the old one is taken out, so a change that leaves both weights leaves both counts. -/
def State.setTask (t : TaskId) (r : TaskRecord) (s : State) : State :=
  { s with
    tasks := put s.tasks t r
    partitions := uncount s.tasks[t] (count r s.partitions) }

def State.modTask (t : TaskId) (f : TaskRecord → TaskRecord) (s : State) : State := s.setTask t (f (s.task t))

/-- The record becomes FREE and takes the free-record values (R13). -/
def State.freeTask (t : TaskId) (s : State) : State := s.setTask t .freeRecord

def State.isHandler (s : State) (t : TaskId) : Bool := (s.task t).cls = .handler

/-- The single PU in a handler's affinity (R11): the lowest one of the set (log 25). -/
def TaskRecord.homePu (r : TaskRecord) : Pu := (all8.find? fun p => r.affinity.getLsbD p.val).getD 0

/-! ### Ordered lists of tasks -/

/-- Behind every entry whose key is not above t's, ahead of the others. -/
def insertLast (key : TaskId → Nat) (t : TaskId) : List TaskId → List TaskId
  | [] => [t]
  | y :: ys => if key y ≤ key t then y :: insertLast key t ys else t :: y :: ys

/-- Behind every entry whose key is below t's, ahead of the others. -/
def insertFirst (key : TaskId → Nat) (t : TaskId) : List TaskId → List TaskId
  | [] => [t]
  | y :: ys => if key y < key t then y :: insertFirst key t ys else t :: y :: ys

/-- The list without t; the others keep their order. -/
def without (t : TaskId) (l : List TaskId) : List TaskId := l.filter fun y => y ≠ t

/-! ### Ready queues and urgent queues -/

def State.readyQueue (s : State) (k : Partition) (q : Priority) : List TaskId := s.ready[k][q]

def State.setReadyQueue (k : Partition) (q : Priority) (l : List TaskId) (s : State) : State :=
  { s with ready := put s.ready k (put s.ready[k] q l) }

def State.urgentQueue (s : State) (p : Pu) : List TaskId := s.urgent[p]

def State.setUrgentQueue (p : Pu) (l : List TaskId) (s : State) : State := { s with urgent := put s.urgent p l }

/-- Where a task enters its queue: READY-head or READY-tail (R32); for a handler, first or last of its priority group
(R84). -/
inductive QueueEnd
  | head
  | tail
deriving DecidableEq, Repr

/-- A handler's key in an urgent queue: its priority (R84). -/
def State.urgentKey (s : State) (t : TaskId) : Nat := (s.task t).priority.val

/-- Task t enters the queue its record names (R31, R32, R84). -/
def State.enterQueue (t : TaskId) (e : QueueEnd) (s : State) : State :=
  let r := s.task t
  match r.cls, e with
  | .normal, .head => s.setReadyQueue r.partition r.priority (t :: s.readyQueue r.partition r.priority)
  | .normal, .tail => s.setReadyQueue r.partition r.priority (s.readyQueue r.partition r.priority ++ [t])
  | .handler, .head => s.setUrgentQueue r.homePu (insertFirst s.urgentKey t (s.urgentQueue r.homePu))
  | .handler, .tail => s.setUrgentQueue r.homePu (insertLast s.urgentKey t (s.urgentQueue r.homePu))

/-- Task t leaves the queue its record names, from whatever position (R33, R85). -/
def State.leaveQueue (t : TaskId) (s : State) : State :=
  let r := s.task t
  match r.cls with
  | .normal => s.setReadyQueue r.partition r.priority (without t (s.readyQueue r.partition r.priority))
  | .handler => s.setUrgentQueue r.homePu (without t (s.urgentQueue r.homePu))

/-- Task t becomes READY and enters its queue; a READY task has no stop reason (R2 (d)). -/
def State.makeReady (t : TaskId) (e : QueueEnd) (s : State) : State :=
  (s.modTask t fun r => { r with state := .ready, stopReason := none }).enterQueue t e

/-! ### Engines -/

def State.engine (s : State) (p : Pu) : Engine := s.engines[p]

def State.setEngine (p : Pu) (e : Engine) (s : State) : State := { s with engines := put s.engines p e }

def State.modEngine (p : Pu) (f : Engine → Engine) (s : State) : State := s.setEngine p (f (s.engine p))

def State.setEngineState (p : Pu) (st : EngineState) (s : State) : State := s.modEngine p fun e => { e with st := st }

def State.setStack (p : Pu) (l : List TaskId) (s : State) : State := s.modEngine p fun e => { e with stack := l }

/-- Changes the switch of a SWITCHING engine. -/
def State.modSwitch (p : Pu) (f : Switch → Switch) (s : State) : State :=
  s.modEngine p fun e =>
    match e.st with
    | .switching sw => { e with st := .switching (f sw) }
    | _ => e

/-- The running task; of a SWITCHING engine, its outgoing task (R52). -/
def Engine.runningTask (e : Engine) : Option TaskId :=
  match e.st with
  | .running t => some t
  | .switching sw => sw.outgoing.map Outgoing.task
  | _ => none

def Engine.claimedTask (e : Engine) : Option TaskId :=
  match e.st with
  | .switching sw => sw.claimed
  | _ => none

def Engine.pendingDest (e : Engine) : Option Dest :=
  match e.st with
  | .switching sw => sw.outgoing.map Outgoing.dest
  | _ => none

/-- The number of stack entries, plus one while a push is pending (R91). -/
def Engine.occupancy (e : Engine) : Nat := e.stack.length + if e.pendingDest = some .displaced then 1 else 0

/-- IDLE, SWITCHING or RUNNING (R34 (b), R83 (a)). -/
def Engine.present (e : Engine) : Bool :=
  match e.st with
  | .idle | .switching _ | .running _ => true
  | .offline | .faulted => false

/-- The PU whose running task is t (R53). -/
def State.puRunning (s : State) (t : TaskId) : Option Pu := all8.find? fun p => (s.engine p).runningTask = some t

/-- The PU whose claimed task is t (R53). -/
def State.puClaiming (s : State) (t : TaskId) : Option Pu := all8.find? fun p => (s.engine p).claimedTask = some t

/-- The PU whose displacement stack holds t (R91). -/
def State.puStacking (s : State) (t : TaskId) : Option Pu := all8.find? fun p => (s.engine p).stack.contains t

/-! ### Channels and the Delay List -/

def State.channel (s : State) (c : ChannelId) : Channel := s.channels[c]

def State.setChannel (c : ChannelId) (r : Channel) (s : State) : State := { s with channels := put s.channels c r }

def State.modChannel (c : ChannelId) (f : Channel → Channel) (s : State) : State := s.setChannel c (f (s.channel c))

/-- A waiter's key: handlers ahead of NORMAL tasks, then by priority (R105). -/
def State.waiterKey (s : State) (t : TaskId) : Nat :=
  (if s.isHandler t then 0 else 8) + (s.task t).priority.val

/-- Task t enters the waiter list as the last of its class and priority group, and its record gets the channel (R106). -/
def State.enterWaiters (c : ChannelId) (t : TaskId) (s : State) : State :=
  (s.modChannel c fun r => { r with waiters := insertLast s.waiterKey t r.waiters }).modTask t
    fun r => { r with waitChannel := some c }

/-- Task t leaves its waiter list, if it is on one, and the channel leaves its record (R105, R107). -/
def State.leaveWaiters (t : TaskId) (s : State) : State :=
  match (s.task t).waitChannel with
  | some c =>
    (s.modChannel c fun r => { r with waiters := without t r.waiters }).modTask t
      fun r => { r with waitChannel := none }
  | none => s

/-- Wake tick a falls due no later than wake tick b. Both lie less than 2^31 ticks apart (R140). -/
def dueNoLater (a b : BitVec 32) : Bool := decide ((b - a).toNat < 2 ^ 31)

/-- An entry with this wake tick is due at a tick that carries this counter value (R140). -/
def dueAt (counter wake : BitVec 32) : Bool := decide ((counter - wake).toNat < 2 ^ 31)

/-- The place of an entry: after every entry that falls due no later, ahead of every entry that falls due later (R140). -/
def insertDue (wakeOf : TaskId → BitVec 32) (t : TaskId) (wake : BitVec 32) : List TaskId → List TaskId
  | [] => [t]
  | y :: ys => if dueNoLater (wakeOf y) wake then y :: insertDue wakeOf t wake ys else t :: y :: ys

/-- The wake tick of a task on the Delay List (R139). -/
def State.wakeOf (s : State) (t : TaskId) : BitVec 32 := (s.task t).wakeTick.getD 0

/-- Task t enters the Delay List, due that many ticks from now (R140). -/
def State.enterDelayList (t : TaskId) (ticks : BitVec 32) (s : State) : State :=
  let wake := s.frame.tickCounter + ticks
  ({ s with delayList := insertDue s.wakeOf t wake s.delayList }).modTask t fun r => { r with wakeTick := some wake }

/-- Task t leaves the Delay List, if it is on it, and the wake tick leaves its record (R143). -/
def State.leaveDelayList (t : TaskId) (s : State) : State :=
  ({ s with delayList := without t s.delayList }).modTask t fun r => { r with wakeTick := none }

/-! ### Requests between the blocks (log 3) -/

/-- One decision makes these requests, to be taken in this order. -/
def State.request (rs : List Request) (s : State) : State :=
  match rs with
  | [] => s
  | _ :: _ => { s with requests := s.requests ++ [rs] }

/-- Of the groups whose first request is asked for, the `nth`, counted from 0: that request, and the groups that then
remain. -/
def nthRequest (want : Request → Bool) : Nat → List (List Request) → Option (Request × List (List Request))
  | _, [] => none
  | nth, [] :: gs => (nthRequest want nth gs).map fun (r, rest) => (r, [] :: rest)
  | nth, (r :: rs) :: gs =>
    match want r, nth with
    | true, 0 =>
      some (r, match rs with
        | [] => gs
        | _ :: _ => rs :: gs)
    | true, n + 1 => (nthRequest want n gs).map fun (r', rest) => (r', (r :: rs) :: rest)
    | false, n => (nthRequest want n gs).map fun (r', rest) => (r', (r :: rs) :: rest)

/-- Takes a request: it is outstanding no longer, and `act` is its effect. Where none is outstanding and next in its
group, or not so many are, nothing is taken (log 3). -/
def State.takeRequest (want : Request → Bool) (nth : Nat) (act : Request → State → State) (s : State) : State :=
  match nthRequest want nth s.requests with
  | some (r, rest) => act r { s with requests := rest }
  | none => s

/-- The request that follows when a task has become READY: a place request for a NORMAL task, an urgent arrival at its
home PU for a handler (R17, R86, R113). -/
def State.readyRequest (s : State) (t : TaskId) : Request :=
  match (s.task t).cls with
  | .normal => .place t
  | .handler => .urgent (s.task t).homePu .arrival

/-- The requests that follow when these tasks have entered their queues, in list order (R86, R113). -/
def State.readyRequests (s : State) (ts : List TaskId) : List Request := ts.map s.readyRequest

/-- A place request made before SET_PRIORITY moved its task changes nothing when it is taken (R35, log 18). -/
def State.voidPlace (t : TaskId) (s : State) : State :=
  { s with requests := (s.requests.map fun g => g.filter fun r => r ≠ .place t).filter fun g => g ≠ [] }

end Sys2Proof.Machine
end

