-- ==== Sys2Proof/Machine/Operands.lean ====
section
/-!
DEFINITION. The layouts software sees (9.7): the argument words of each command, read into typed arguments, and the codes
and result words of each response. Argument values are whole words unless R202 gives their bits (log 15, log 16).
-/

namespace Sys2Proof.Machine

/-! ### Reading arguments (R202) -/

/-- Argument word n of a captured command. -/
def Captured.arg (c : Captured) (n : Fin 6) : Word := c.args[n]

/-- The value as a number below n; absent where it is out of range. -/
def asFin (n : Nat) (v : Nat) : Option (Fin n) := if h : v < n then some ⟨v, h⟩ else none

/-- The bits of the word from `lo` upward, `w` of them, as a number. -/
def bits (x : Word) (lo w : Nat) : Nat := (x.extractLsb' lo w).toNat

def taskArg (x : Word) : Option TaskId := asFin 128 x.toNat

def partitionArg (x : Word) : Option Partition := asFin 8 x.toNat

def puArg (x : Word) : Option Pu := asFin 8 x.toNat

def channelArg (x : Word) : Option ChannelId := asFin 48 x.toNat

/-- A set of PUs or of partitions is a mask with bit n for PU or partition n. -/
def setArg (x : Word) : BitVec 8 := x.setWidth 8

/-- A set of flags in the layout of the condition word; bits above the seventeen flags are ignored (R198, R199). -/
def flagsArg (x : Word) : BitVec 17 := x.setWidth 17

/-- A flag stands in bit 0. -/
def flagArg (x : Word) : Bool := x.getLsbD 0

/-- A value of 0 to 65,535. -/
def shortArg (x : Word) : Option (BitVec 16) := if x.toNat < 65536 then some (x.setWidth 16) else none

/-- A value of 1 to 65,535. -/
def positiveShortArg (x : Word) : Option (BitVec 16) := if x.toNat = 0 then none else shortArg x

/-- A value of 0 to 255. -/
def byteArg (x : Word) : Option (BitVec 8) := if x.toNat < 256 then some (x.setWidth 8) else none

/-- A value of 1 to 255. -/
def positiveByteArg (x : Word) : Option (BitVec 8) := if x.toNat = 0 then none else byteArg x

/-- A tick period of 1 to 1000 (R148). -/
def tickPeriodArg (x : Word) : Option (BitVec 16) := if x.toNat ≤ 1000 then positiveShortArg x else none

/-- A number of ticks from 0 to 16,777,215 (R133). -/
def ticksArg (x : Word) : Option (BitVec 32) := if x.toNat ≤ Config.maxDelay then some (x.setWidth 32) else none

def privilegeOf : Nat → Option Privilege
  | 0 => some .user
  | 1 => some .manager
  | 2 => some .supervisor
  | _ => none

def modeOf : Nat → Option ChannelMode
  | 0 => some .signal
  | 1 => some .pulse
  | _ => none

def edgeOf : Nat → Option EdgeSel
  | 0 => some .rising
  | 1 => some .falling
  | 2 => some .both
  | _ => none

def dispositionOf : Nat → Option Disposition
  | 0 => some .hold
  | 1 => some .drop
  | _ => none

def syncModeOf : Nat → Option SyncMode
  | 0 => some .free
  | 1 => some .sync
  | _ => none

def bankOf : Nat → Option BankId
  | 0 => some .a
  | 1 => some .b
  | _ => none

def actionOf : Nat → Option BudgetAction
  | 0 => some .note
  | 1 => some .hold
  | 2 => some .stop
  | 3 => some .halt
  | _ => none

/-- A map entry: 0 to 7 a partition, 8 OPEN, 9 IDLE (R204). -/
def mapEntryOf (v : Nat) : Option MapEntry :=
  match asFin 8 v with
  | some k => some (.part k)
  | none => if v = 8 then some .opened else if v = 9 then some .idle else none

/-- A window map: PU n's entry in bits 8n+7 to 8n (R202). -/
def mapArg (x : Word) : Option (Vector MapEntry 8) := do
  let e0 ← mapEntryOf (bits x 0 8)
  let e1 ← mapEntryOf (bits x 8 8)
  let e2 ← mapEntryOf (bits x 16 8)
  let e3 ← mapEntryOf (bits x 24 8)
  let e4 ← mapEntryOf (bits x 32 8)
  let e5 ← mapEntryOf (bits x 40 8)
  let e6 ← mapEntryOf (bits x 48 8)
  let e7 ← mapEntryOf (bits x 56 8)
  return #v[e0, e1, e2, e3, e4, e5, e6, e7]

/-- The arguments of CREATE (R15, R202). `id` is absent for "any". -/
structure CreateArgs where
  id : Option TaskId
  partition : Partition
  priority : Priority
  cls : TaskClass
  privilege : Privilege
  affinity : BitVec 8
  entryWord : Word
deriving DecidableEq, Repr

/-- The set holds exactly one PU. -/
def isSingle (a : BitVec 8) : Bool := (all8.filter fun p => a.getLsbD p.val).length = 1

/-- The id of CREATE: FFh, "any", is `some none`; a value above 127 and not FFh is absent. -/
def createIdOf (v : Nat) : Option (Option TaskId) := if v = 255 then some none else (asFin 128 v).map some

/-- The argument ranges of R14 (b) and R15 (a); absent where one fails. -/
def createArgs (c : Captured) : Option CreateArgs := do
  let w := c.arg 0
  let id ← createIdOf (bits w 0 8)
  let k ← asFin 8 (bits w 8 8)
  let q ← asFin 8 (bits w 16 8)
  let priv ← privilegeOf (bits w 25 2)
  let cls : TaskClass := if bits w 24 1 = 0 then .normal else .handler
  let aff := setArg (c.arg 1)
  if aff = 0 then none
  else if cls = .handler ∧ isSingle aff = false then none
  else return ⟨id, k, q, cls, priv, aff, c.arg 2⟩

/-- A command that names one task in its first argument word. -/
def taskArgs (c : Captured) : Option TaskId := taskArg (c.arg 0)

def priorityArgs (c : Captured) : Option (TaskId × Priority) := do
  return (← taskArg (c.arg 0), ← asFin 8 (c.arg 1).toNat)

/-- An empty set fails the range check (R24). -/
def affinityArgs (c : Captured) : Option (TaskId × BitVec 8) := do
  let t ← taskArg (c.arg 0)
  if setArg (c.arg 1) = 0 then none else return (t, setArg (c.arg 1))

def partitionArgs (c : Captured) : Option Partition := partitionArg (c.arg 0)

def puArgs (c : Captured) : Option Pu := puArg (c.arg 0)

def channelArgs (c : Captured) : Option ChannelId := channelArg (c.arg 0)

/-- POST names a SOFT channel and a count of 1 to 255 (R116 (b)). -/
def postArgs (c : Captured) : Option (ChannelId × BitVec 8) := do
  let ch ← channelArg (c.arg 0)
  let n ← positiveByteArg (c.arg 1)
  if ch.val < 16 then none else return (ch, n)

/-- The configuration BIND gives a channel (R119). -/
structure BindArgs where
  channel : ChannelId
  mode : ChannelMode
  edge : EdgeSel
  masked : Bool
  disposition : Disposition
  postRights : BitVec 8
deriving DecidableEq, Repr

def bindArgs (c : Captured) : Option BindArgs := do
  let ch ← channelArg (c.arg 0)
  let m ← modeOf (c.arg 1).toNat
  let e ← edgeOf (c.arg 2).toNat
  let d ← dispositionOf (c.arg 4).toNat
  return ⟨ch, m, e, flagArg (c.arg 3), d, setArg (c.arg 5)⟩

/-- WAIT: the channel and the timeout, 0 for none (R133). -/
def waitArgs (c : Captured) : Option (ChannelId × BitVec 32) := do
  return (← channelArg (c.arg 1), ← ticksArg (c.arg 2))

/-- DELAY: 1 to 16,777,215 ticks (R136). -/
def delayArgs (c : Captured) : Option (BitVec 32) := if (c.arg 1).toNat = 0 then none else ticksArg (c.arg 1)

/-- The four configuration parameters (R148). -/
structure ConfigArgs where
  tickPeriod : BitVec 16
  handoverLimit : BitVec 8
  syncMode : SyncMode
  gapLimit : BitVec 16
deriving DecidableEq, Repr

def configArgs (c : Captured) : Option ConfigArgs := do
  return ⟨← tickPeriodArg (c.arg 0), ← positiveByteArg (c.arg 1), ← syncModeOf (c.arg 2).toNat,
    ← positiveShortArg (c.arg 3)⟩

def windowArgs (c : Captured) : Option (WindowIndex × Window) := do
  let i ← asFin 24 (c.arg 0).toNat
  let l ← positiveShortArg (c.arg 1)
  let m ← mapArg (c.arg 2)
  return (i, ⟨l, m⟩)

def countArgs (c : Captured) : Option (Fin 25) := asFin 25 (c.arg 0).toNat

def framesArgs (c : Captured) : Option (BitVec 8) := byteArg (c.arg 0)

def readPlanArgs (c : Captured) : Option (BankId × WindowIndex) := do
  return (← bankOf (c.arg 0).toNat, ← asFin 24 (c.arg 1).toNat)

/-- The thresholds SET_BUDGET gives a task (R182). -/
structure BudgetArgs where
  task : TaskId
  limit : BitVec 16
  warn : BitVec 16
  action : BudgetAction
deriving DecidableEq, Repr

/-- A limit above 0 with a warn above the limit fails the range check (R182 (b)). -/
def budgetArgs (c : Captured) : Option BudgetArgs := do
  let t ← taskArg (c.arg 0)
  let l ← shortArg (c.arg 1)
  let w ← shortArg (c.arg 2)
  let a ← actionOf (c.arg 3).toNat
  if 0 < l.toNat ∧ l.toNat < w.toNat then none else return ⟨t, l, w, a⟩

/-! ### Codes (R202 to R204) -/

/-- The value shown where no task or PU applies. -/
def noneCode : Nat := 255

def optCode {n : Nat} (o : Option (Fin n)) : Nat :=
  match o with
  | some x => x.val
  | none => noneCode

def flagCode (b : Bool) : Nat := if b then 1 else 0

def TaskState.code : TaskState → Nat
  | .free => 0
  | .dormant => 1
  | .ready => 2
  | .claimed => 3
  | .running => 4
  | .displaced => 5
  | .waiting => 6
  | .held => 7
  | .suspended => 8

def TaskClass.code : TaskClass → Nat
  | .normal => 0
  | .handler => 1

def Privilege.code : Privilege → Nat
  | .user => 0
  | .manager => 1
  | .supervisor => 2

def waitResultCode : Option WaitResult → Nat
  | none => 0
  | some .signalled => 1
  | some .timeout => 2
  | some .elapsed => 3
  | some .interrupted => 4
  | some .channelReset => 5

def stopReasonCode : Option StopReason → Nat
  | none => 0
  | some .command => 1
  | some .budget => 2
  | some .stranded => 3

def switchReasonCode : Option SwitchReason → Nat
  | none => 0
  | some .preempt => 1
  | some .window => 2
  | some .urgent => 3
  | some .unwind => 4
  | some .suspend => 5
  | some .retire => 6
  | some .budget => 7
  | some .halt => 8
  | some .affinity => 9
  | some .stop => 10

def BudgetAction.code : BudgetAction → Nat
  | .note => 0
  | .hold => 1
  | .stop => 2
  | .halt => 3

def EngineState.code : EngineState → Nat
  | .offline => 0
  | .idle => 1
  | .switching _ => 2
  | .running _ => 3
  | .faulted => 4

def FrameState.code : FrameState → Nat
  | .stopped => 0
  | .armed => 1
  | .framing => 2
  | .gap => 3

def BankId.code : BankId → Nat
  | .a => 0
  | .b => 1

def MapEntry.code : MapEntry → Nat
  | .part k => k.val
  | .opened => 8
  | .idle => 9

def destCode : Option Dest → Nat
  | none => 0
  | some .free => 1
  | some (.suspended _) => 2
  | some .held => 3
  | some .displaced => 4
  | some .readyHead => 5

/-- The stop reason a destination carries (R52). -/
def Dest.stopReason : Dest → Option StopReason
  | .suspended why => some why
  | .held => some .budget
  | _ => none

def ChannelMode.code : ChannelMode → Nat
  | .signal => 0
  | .pulse => 1

def EdgeSel.code : EdgeSel → Nat
  | .rising => 0
  | .falling => 1
  | .both => 2

def Disposition.code : Disposition → Nat
  | .hold => 0
  | .drop => 1

def SyncMode.code : SyncMode → Nat
  | .free => 0
  | .sync => 1

def haltReasonCode : Option HaltReason → Nat
  | none => 0
  | some .command => 1
  | some (.budget _) => 2

/-- The task id of a BUDGET halt (R48 (g)). -/
def haltTask : Option HaltReason → Option TaskId
  | some (.budget t) => some t
  | _ => none

def statusCode : Option Status → Nat
  | none => 0
  | some .done => 1
  | some .refusedState => 2
  | some .refusedRange => 3
  | some .refusedProtect => 4
  | some .noResource => 5
  | some .stale => 6
  | some .notRunning => 7
  | some .puFaulted => 8
  | some .aborted => 9

def OutcomeCode.code : OutcomeCode → Nat
  | .none => 0
  | .deferred => 1
  | .continue => 2
  | .switched => 3
  | .idle => 4

def PortState.code : PortState → Nat
  | .idle => 0
  | .busy _ => 1
  | .done => 2

/-! ### Result words -/

/-- The value placed in the word from bit `lo` upward. -/
def fieldAt (lo v : Nat) : Word := BitVec.ofNat 64 v <<< lo

/-- A word made of the fields, each a lowest bit and a value. -/
def packed (fs : List (Nat × Nat)) : Word := fs.foldr (fun f acc => fieldAt f.1 f.2 ||| acc) 0

/-- One value in the low bits of its word. -/
def low (v : Nat) : Word := BitVec.ofNat 64 v

/-- RES0 to RES5 from the words given; the others hold 0. -/
def resWords (l : List Word) : Vector Word 6 :=
  #v[l.getD 0 0, l.getD 1 0, l.getD 2 0, l.getD 3 0, l.getD 4 0, l.getD 5 0]

/-- Bytes of a word, bits 8n+7 to 8n for entry n. -/
def packedBytes : List Nat → Word
  | [] => 0
  | b :: bs => low b ||| (packedBytes bs <<< 8)

/-- The depth of t in a stack whose top is first, counted from 1 at the bottom (R7); 0 where it is absent. -/
def depthIn (t : TaskId) : List TaskId → Nat
  | [] => 0
  | y :: ys => if y = t then ys.length + 1 else depthIn t ys

/-- The location of a task: its PU and depth, derived from the engines (R7). -/
def State.location (s : State) (t : TaskId) : Option Pu × Nat :=
  match (s.task t).state with
  | .running => (s.puRunning t, 0)
  | .claimed => (s.puClaiming t, 0)
  | .displaced =>
    match s.puStacking t with
    | some p => (some p, depthIn t (s.engine p).stack)
    | none => (none, 0)
  | _ => (none, 0)

/-- The result words of READ_TASK and READ_SELF (R204). -/
def State.taskWords (s : State) (t : TaskId) : List Word :=
  let r := s.task t
  let loc := s.location t
  [ packed [(0, t.val), (8, r.partition.val), (16, r.priority.val), (24, r.cls.code), (25, r.privilege.code),
      (32, r.affinity.toNat), (40, optCode loc.1), (48, loc.2), (56, optCode r.lastPu)],
    packed [(0, r.state.code), (8, optCode r.waitChannel), (16, waitResultCode r.waitResult),
      (24, stopReasonCode r.stopReason), (32, (r.wakeTick.getD 0).toNat)],
    r.entryWord,
    r.resumeWord,
    packed [(0, r.budgetLimit.toNat), (16, r.budgetWarn.toNat), (32, r.budgetUsed.toNat), (48, r.budgetAction.code),
      (50, flagCode r.warnFlag), (56, r.overrunCount.toNat)],
    packed [(0, r.dispatchCount.toNat), (16, flagCode r.wakeTick.isSome)] ]

/-- The result words of a lifecycle command: the task id and the state after the command (R14, R204). -/
def State.idStateWords (s : State) (t : TaskId) : List Word := [low t.val, low (s.task t).state.code]

/-- The result words of READ_PARTITION (R48, R205). -/
def State.partitionWords (s : State) (k : Partition) : List Word :=
  let r := s.part k
  [ low k.val, low (flagCode r.halted.isSome), low (haltReasonCode r.halted), low (optCode (haltTask r.halted)),
    low (flagCode r.purge.isSome), packed [(0, r.readyCount), (32, r.memberCount)] ]

/-- The result words of READ_CHANNEL (R121, R205). -/
def State.channelWords (s : State) (c : ChannelId) : List Word :=
  let r := s.channel c
  [ packed [(0, c.val), (8, if c.val < 16 then 0 else 1), (9, r.mode.code), (10, r.edge.code), (12, flagCode r.masked),
      (13, r.disposition.code)],
    packed [(0, r.pendingCount.toNat), (8, flagCode r.saturated)],
    low r.postRights.toNat,
    low r.arrivalCount.toNat,
    low r.waiters.length,
    packedBytes (((r.waiters.map Fin.val) ++ List.replicate 8 noneCode).take 8) ]

end Sys2Proof.Machine
end

