-- ==== Sys2Proof/Machine/Ports.lean ====
section
/-!
DEFINITION. The Port Unit (Chapter 9): responses, privilege, the order of the checks, violations, GO and the window fields,
and what a bus read of a window word gives.
-/

namespace Sys2Proof.Machine

/-! ### Responses (R189, R190) -/

def State.port (s : State) (p : Pu) : Port := s.ports[p]

def State.setPort (p : Pu) (r : Port) (s : State) : State := { s with ports := put s.ports p r }

def State.modPort (p : Pu) (f : Port → Port) (s : State) : State := s.setPort p (f (s.port p))

/-- The response is written and the port becomes DONE; window fields and overrun flag are kept (R189, R191). -/
def Port.answered (st : Status) (oc : OutcomeCode) (superseded : Bool) (res : List Word) (r : Port) : Port :=
  { r with state := .done, status := some st, outcome := oc, superseded := superseded, res := resWords res }

def State.respond (p : Pu) (st : Status) (oc : OutcomeCode) (superseded : Bool) (res : List Word) (s : State) : State :=
  s.modPort p (Port.answered st oc superseded res)

/-- DONE with outcome NONE and these result words. -/
def State.answer (p : Pu) (res : List Word) (s : State) : State := s.respond p .done .none false res

/-- DONE with outcome DEFERRED and these result words. -/
def State.answerDeferred (p : Pu) (res : List Word) (s : State) : State := s.respond p .done .deferred false res

/-- The purge of a partition whose answer port p waits for (R44, R46). -/
def State.purgeAt (s : State) (p : Pu) : Bool :=
  all8.any fun k =>
    match (s.part k).purge with
    | some g => g.port = some p
    | none => false

/-- The purge whose answer port p waited for goes on without a port to answer (R47). -/
def PartitionRecord.unport (p : Pu) (r : PartitionRecord) : PartitionRecord :=
  match r.purge with
  | some g => if g.port = some p then { r with purge := some { g with port := none } } else r
  | none => r

/-- A command outstanding on port p is answered with this status by an event of another block (R191). -/
def State.endOutstanding (p : Pu) (st : Status) (s : State) : State :=
  match (s.port p).state with
  | .busy _ => { s.respond p st .none false [] with partitions := s.partitions.map (PartitionRecord.unport p) }
  | _ => s

/-! ### Privilege (R192 to R195) -/

/-- The privilege classes of the command summary (R193). -/
inductive PrivClass
  | puLevel | user | manager | supervisor
deriving DecidableEq, Repr

/-- The running task of PU p, on a SWITCHING PU its outgoing task. -/
def State.issuerTask (s : State) (p : Pu) : Option TaskId := (s.engine p).runningTask

/-- The effective privilege of port p (R192). -/
def State.effectivePrivilege (s : State) (p : Pu) : Option Privilege :=
  if s.frame.state = .stopped then some .supervisor
  else (s.issuerTask p).map fun t => (s.task t).privilege

/-- The Port Unit's check by class (R193). -/
def State.classPasses (s : State) (p : Pu) : PrivClass → Bool
  | .puLevel => true
  | .user => (s.effectivePrivilege p).isSome
  | .manager => s.effectivePrivilege p = some .manager || s.effectivePrivilege p = some .supervisor
  | .supervisor => s.effectivePrivilege p = some .supervisor

/-- Whether the issuer's scope takes in partition k: every scope is open to SUPERVISOR, and an issuer of USER or MANAGER
privilege has its own partition (R14 (c), R192). -/
def State.inScope (s : State) (p : Pu) (k : Partition) : Bool :=
  match s.effectivePrivilege p with
  | some .supervisor => true
  | some _ => (s.issuerTask p).map (fun t => (s.task t).partition) = some k
  | none => false

/-- The own-partition rule for a named task; it is not made against a FREE record (R14 (c)). -/
def State.taskInScope (s : State) (p : Pu) (t : TaskId) : Bool :=
  (s.task t).state = .free || s.inScope p (s.task t).partition

/-- A protection violation is counted and recorded, and PROTECT is latched (R195). -/
def State.violate (p : Pu) (kind : BitVec 8) (s : State) : State :=
  ({ s with violation :=
      { count := satInc s.violation.count, lastPu := some p, lastKind := kind, lastTask := s.issuerTask p } }).latch
    .protect

/-- A refused command: the response, with nothing but the recording a REFUSED_PROTECT calls for (R189, R195). -/
def State.refuse (p : Pu) (c : Captured) (st : Status) (s : State) : State :=
  (if st = .refusedProtect then s.violate p c.kind else s).respond p st .none false []

/-! ### Taking a captured command (R189) -/

/-- The captured command of port p that has not been taken: the port is BUSY, and not with a purge in flight. -/
def State.capturedAt (s : State) (p : Pu) : Option Captured :=
  match (s.port p).state with
  | .busy c => if s.purgeAt p then none else some c
  | _ => none

/-- Takes the captured command of port p if it is of this kind. While RESET# is low nothing is taken (R206). Where no such
command is captured nothing changes (log 2). -/
def State.takeCommand (p : Pu) (kind : BitVec 8) (body : Captured → State) (s : State) : State :=
  if s.pins.resetLow then s
  else
    match s.capturedAt p with
    | some c => if c.kind = kind then body c else s
    | none => s

/-- The checks in the order of R14 and R189: privilege class, argument ranges, then the command's own (scope and state).
The first that fails gives the response. -/
def State.checked {α : Type} (p : Pu) (c : Captured) (s : State) (cls : PrivClass) (args : Option α)
    (refusal : α → Option Status) (perform : α → State) : State :=
  if s.classPasses p cls then
    match args with
    | none => s.refuse p c .refusedRange
    | some a =>
      match refusal a with
      | some st => s.refuse p c st
      | none => perform a
  else s.refuse p c .refusedProtect

/-- The checks of a self command: a running task, then the argument ranges (R125). -/
def State.selfChecked {α : Type} (p : Pu) (c : Captured) (s : State) (args : Option α) (perform : TaskId → α → State) :
    State :=
  match s.issuerTask p with
  | none => s.refuse p c .notRunning
  | some t =>
    match args with
    | none => s.refuse p c .refusedRange
    | some a => perform t a

/-- An internal step or an event: while RESET# is low the part holds its hard-reset state (R206). -/
def State.awake (body : State → State) (s : State) : State := if s.pins.resetLow then s else body s

/-! ### Kinds (R202) -/

/-- A code of 0, or of 40 to 255, names no command (R202). -/
def namesNoCommand (kind : BitVec 8) : Bool := kind.toNat = 0 || 40 ≤ kind.toNat

/-- UNDEFINED_COMMAND_KIND: answered REFUSED_RANGE, no violation (R189 (a)). -/
def execUndefinedCommandKind (p : Pu) (s : State) : Host.Outcome State Fault Refusal :=
  .next <| s.awake fun s =>
    match s.capturedAt p with
    | some c => if namesNoCommand c.kind then s.refuse p c .refusedRange else s
    | none => s

/-! ### GO and the window fields (R187, R188) -/

/-- A GO accepted: the window fields become the captured command, the response words are set to 0, the overrun flag is
cleared, the port becomes BUSY (R188 (a)). -/
def Port.accepted (r : Port) : Port :=
  { r with
    state := .busy ⟨r.kind, r.args⟩, status := none, outcome := .none, superseded := false
    res := resWords [], overrun := false }

/-- A write to GO of port p (R188). -/
def State.writeGo (p : Pu) (s : State) : State :=
  match (s.port p).state with
  | .busy _ => (s.modPort p fun r => { r with overrun := true }).latch .portOverrun
  | _ => s.modPort p Port.accepted

/-- GO_ACCEPTED: a write to GO (log 13). -/
def execGoAccepted (p : Pu) (s : State) : Host.Outcome State Fault Refusal := .next (s.awake (State.writeGo p))

/-- GO_DISCARDED: a write to GO (log 13). -/
def execGoDiscarded (p : Pu) (s : State) : Host.Outcome State Fault Refusal := .next (s.awake (State.writeGo p))

/-- The window fields after a write of `v` at word select `sel`: KIND keeps bits 7 to 0 (log 14); writes to read-only
words are ignored (R202). -/
def Port.written (sel : BitVec 5) (v : Word) (r : Port) : Port :=
  if sel.toNat = 0 then { r with kind := v.setWidth 8 }
  else
    match asFin 6 (sel.toNat - 1) with
    | some i => { r with args := put r.args i v }
    | none => r

/-- WINDOW_FIELD_WRITE changes the window fields alone, in any port state (R187, R188). -/
def execWindowFieldWrite (p : Pu) (sel : BitVec 5) (v : Word) (s : State) : Host.Outcome State Fault Refusal :=
  .next (s.awake (State.modPort p (Port.written sel v)))

/-- What a bus read of the word at this word select gives; it changes nothing (R188, R202, log 26). -/
def State.readWindow (s : State) (p : Pu) (sel : BitVec 5) : Word :=
  let r := s.port p
  match sel.toNat with
  | 0 => r.kind.setWidth 64
  | 1 => r.args[0]
  | 2 => r.args[1]
  | 3 => r.args[2]
  | 4 => r.args[3]
  | 5 => r.args[4]
  | 6 => r.args[5]
  | 8 => low (statusCode r.status)
  | 9 => packed [(0, r.outcome.code), (8, flagCode r.superseded)]
  | 10 => r.res[0]
  | 11 => r.res[1]
  | 12 => r.res[2]
  | 13 => r.res[3]
  | 14 => r.res[4]
  | 15 => r.res[5]
  | 16 => packed [(0, r.state.code), (8, flagCode r.overrun)]
  | _ => 0

end Sys2Proof.Machine
end

