-- ==== Sys2Proof/Machine/Selector.lean ====
section
/-!
DEFINITION. The Selector: eligibility (2.3), the pick request (R38, R39), the unwind choice (4.5), and the moves that fill
and return a claim. The place request and the urgent arrival stand in Engines.lean, beside the switches they begin.
-/

namespace Sys2Proof.Machine

/-! ### The plan in force -/

def FrameUnit.bank (f : FrameUnit) : BankId → Bank
  | .a => f.bankA
  | .b => f.bankB

def FrameUnit.activeBank (f : FrameUnit) : Bank := f.bank f.active

def BankId.other : BankId → BankId
  | .a => .b
  | .b => .a

def FrameUnit.standbyBank (f : FrameUnit) : Bank := f.bank f.active.other

/-- FRAMING or GAP: the two frame states in which work is dispatched (R34 (c), R83 (b), R155). -/
def FrameUnit.dispatching (f : FrameUnit) : Bool := f.state = .framing || f.state = .gap

/-- The window in force; in GAP the last window of the frame (R147, R155). -/
def FrameUnit.windowInForce (f : FrameUnit) : Option Window :=
  if f.dispatching then some f.activeBank.windows[f.windowIndex] else none

/-- PU p's entry in the map of the window in force (R77). -/
def State.assignment (s : State) (p : Pu) : Option MapEntry := s.frame.windowInForce.map fun w => w.map[p]

/-- The map entry is the partition or OPEN (R34 (e)). -/
def MapEntry.allows (k : Partition) : MapEntry → Bool
  | .part k' => k' = k
  | .opened => true
  | .idle => false

/-- A task may run under this entry; under none where no window is in force. -/
def State.allowedBy (s : State) (m : Option MapEntry) (t : TaskId) : Bool :=
  match m with
  | some m => m.allows (s.task t).partition
  | none => false

def State.mapAllows (s : State) (p : Pu) (t : TaskId) : Bool := s.allowedBy (s.assignment p) t

/-- The entry that a window re-evaluation of PU p carries. -/
def Request.formerOf (p : Pu) : Request → Option (Option MapEntry)
  | .window q former => if q = p then some former else none
  | _ => none

/-- PU p's entry in the former window of each window start whose re-evaluation of p is outstanding, oldest first. -/
def State.formerEntries (s : State) (p : Pu) : List (Option MapEntry) := s.requests.flatten.filterMap (Request.formerOf p)

/-- PU p's entry as a place request judges it (R167): before a window start's re-evaluation of p, that in the former window.
Of several such starts the oldest counts; none does where one of them had no window before it (log 30). -/
def State.placeAssignment (s : State) (p : Pu) : Option MapEntry :=
  match s.formerEntries p with
  | [] => s.assignment p
  | former :: later => if later.contains none then none else former

/-! ### Eligibility (R34) -/

/-- The partition is halted or purging. -/
def State.blocked (s : State) (k : Partition) : Bool := (s.part k).halted.isSome || (s.part k).purge.isSome

/-- R34 (a) to (d). -/
def State.mayRun (s : State) (p : Pu) (t : TaskId) : Bool :=
  (s.task t).affinity.getLsbD p.val && (s.engine p).present && s.frame.dispatching && !s.blocked (s.task t).partition

/-- R34 (a) to (e), judged by the window in force: the test of a pick and of an unwind choice. -/
def State.eligibleBase (s : State) (p : Pu) (t : TaskId) : Bool := s.mayRun p t && s.mapAllows p t

/-- Eligibility for a pick request PU p makes for its own next task: of (f), only that the stack is empty (R34). -/
def State.eligibleForPick (s : State) (p : Pu) (t : TaskId) : Bool := s.eligibleBase p t && (s.engine p).stack.isEmpty

def State.optHandler (s : State) (o : Option TaskId) : Bool :=
  match o with
  | some t => s.isHandler t
  | none => false

/-- PU p is occupied by urgent work (R34 (f), R82). -/
def State.underUrgentWork (s : State) (p : Pu) : Bool :=
  s.optHandler (s.engine p).runningTask || s.optHandler (s.engine p).claimedTask || !(s.engine p).stack.isEmpty

/-- A NORMAL task t is eligible on PU p for a place request (R34), condition (e) judged by the window R167 gives. -/
def State.eligible (s : State) (p : Pu) (t : TaskId) : Bool :=
  s.mayRun p t && s.allowedBy (s.placeAssignment p) t && !s.underUrgentWork p

/-- The priority number of a task; smaller is more urgent. -/
def State.prio (s : State) (t : TaskId) : Nat := (s.task t).priority.val

/-! ### Pick request (R38, R39) -/

/-- A task that counts in a choice as if it stood in a queue: the outgoing task at the head of its ready queue (R65 (b)),
or the yielding task at the tail of its place (R131, R132). -/
inductive Extra
  | none
  | head (t : TaskId)
  | tail (t : TaskId)
deriving DecidableEq, Repr

/-- Whether NORMAL task t stands, or would stand, in the ready queue of this partition and priority. -/
def State.standsIn (s : State) (t : TaskId) (k : Partition) (q : Priority) : Bool :=
  !s.isHandler t && (s.task t).partition = k && (s.task t).priority = q

/-- A ready queue as a pick sees it. -/
def State.queueView (s : State) (x : Extra) (k : Partition) (q : Priority) : List TaskId :=
  match x with
  | .none => s.readyQueue k q
  | .head t => if s.standsIn t k q then t :: s.readyQueue k q else s.readyQueue k q
  | .tail t => if s.standsIn t k q then s.readyQueue k q ++ [t] else s.readyQueue k q

/-- The best candidate eligible on PU p that is strictly more urgent than the bound: by priority, then by partition
number, then in queue order (R38, R39). Bound 8 is no bound. -/
def State.pickBelow (s : State) (p : Pu) (x : Extra) (bound : Nat) : Option TaskId :=
  all8.findSome? fun q =>
    if q.val < bound then all8.findSome? fun k => (s.queueView x k q).find? (s.eligibleForPick p) else none

/-- The pick request (R38). -/
def State.pick (s : State) (p : Pu) (x : Extra) : Option TaskId := s.pickBelow p x 8

/-! ### Runnable handlers (R83) -/

/-- A handler that may be given to its home PU as far as its partition goes (R83 (c)). -/
def State.runnable (s : State) (t : TaskId) : Bool := !s.blocked (s.task t).partition

/-- PU p's urgent queue as an unwind choice sees it: a yielding handler counts as last of its priority group (R132). -/
def State.urgentView (s : State) (p : Pu) (x : Extra) : List TaskId :=
  match x with
  | .tail t => if s.isHandler t then insertLast s.urgentKey t (s.urgentQueue p) else s.urgentQueue p
  | _ => s.urgentQueue p

/-- The first runnable handler of PU p's urgent queue, while handlers may be given to p (R83). -/
def State.firstRunnable (s : State) (p : Pu) (x : Extra) : Option TaskId :=
  if (s.engine p).present && s.frame.dispatching then (s.urgentView p x).find? s.runnable else none

/-! ### The unwind choice (R94 to R96) -/

/-- The answer of a choice of work: the state after its pops and returns, the task it chose (still in its queue if it
stood in one), the tasks it returned to their queues, in order, and whether it passed over the outgoing task standing as
the top of the stack. -/
structure Choice where
  st : State
  chosen : Option TaskId
  returned : List TaskId
  passedStanding : Bool

/-- R94 (a): u is chosen ahead of the top T of the stack. -/
def State.goesAhead (s : State) (u : Option TaskId) (T : TaskId) : Bool :=
  match u with
  | some h => !s.isHandler T || s.prio h < s.prio T
  | none => false

/-- R94 (b), R95: the task T popped for PU p is taken up. -/
def State.takenUp (s : State) (p : Pu) (T : TaskId) : Bool :=
  if s.isHandler T then !s.blocked (s.task T).partition && s.frame.dispatching
  else s.eligibleBase p T && (s.pickBelow p .none (s.prio T)).isNone

/-- R94 over the entries of the stack, top first. A returned task stands in its queue before the choice begins again; it
is never u, since its partition is blocked or no handler is given. -/
def unwindStack (p : Pu) (u : Option TaskId) (x : Extra) : List TaskId → State → List TaskId → Choice
  | [], s, back =>
    match u with
    | some h => ⟨s, some h, back, false⟩
    | none => ⟨s, s.pick p x, back, false⟩
  | T :: rest, s, back =>
    if s.goesAhead u T then ⟨s, u, back, false⟩
    else if (s.setStack p rest).takenUp p T then ⟨s.setStack p rest, some T, back, false⟩
    else unwindStack p u x rest ((s.setStack p rest).makeReady T .head) (back ++ [T])

/-- The unwind choice of PU p (R94). `standing` is the outgoing task whose pending destination is DISPLACED. A NORMAL
standing task that is not taken is passed over (R65, log 7); a handler standing is passed over when it is popped and not
taken up (R96 (a)). With an empty stack and no runnable handler the choice is the pick (R94 (c)): so it serves every case
in which a rule names a pick where there is no urgent work, an unwind choice otherwise (R57, R63, R65, R126). -/
def State.unwind (s : State) (p : Pu) (standing : Option TaskId) (x : Extra) : Choice :=
  let u := s.firstRunnable p x
  match standing with
  | none => unwindStack p u x (s.engine p).stack s []
  | some T =>
    if s.goesAhead u T then ⟨s, u, [], !s.isHandler T⟩
    else if s.takenUp p T then ⟨s, some T, [], false⟩
    else { unwindStack p u x (s.engine p).stack s [] with passedStanding := true }

/-! ### Claims -/

/-- Task t leaves its place in a queue and becomes CLAIMED for the SWITCHING PU p (R53, R96). -/
def State.claimFor (p : Pu) (t : TaskId) (s : State) : State :=
  ((s.leaveQueue t).modTask t fun r => { r with state := .claimed }).modSwitch p fun sw => { sw with claimed := some t }

/-- The claim of PU p is returned: READY-head, or first of its group in its urgent queue (R32, R84). -/
def State.returnClaim (p : Pu) (s : State) : State :=
  match (s.engine p).claimedTask with
  | some t => (s.modSwitch p fun sw => { sw with claimed := none }).makeReady t .head
  | none => s

/-- A claim is replaced: the former one becomes READY, with its request after this one (R64). -/
def State.retarget (p : Pu) (t : TaskId) (s : State) : State :=
  match (s.engine p).claimedTask with
  | some old => ((s.returnClaim p).claimFor p t).request [s.readyRequest old]
  | none => s.claimFor p t

/-- The displacement stack is emptied top first: each entry returns to its queue (R69 (c), R163). -/
def State.emptyStack (p : Pu) (s : State) : State :=
  (s.engine p).stack.foldl (fun s t => s.makeReady t .head) (s.setStack p [])

end Sys2Proof.Machine
end

