-- ==== Sys2Proof/Machine/Engines.lean ====
section
/-!
DEFINITION. The PU Engines' switches (Chapter 3): beginning a switch, the ranks of destinations, new choices of claim,
withdrawal; the place request (R36), the urgent arrival (R87, R88), the window re-evaluation (R165, R166); and taking a task
out of whatever place it holds, for SUSPEND and RETIRE (R18, R21).
-/

namespace Sys2Proof.Machine

/-! ### Beginning a switch -/

/-- The engine enters SWITCHING with this switch: SWREQ rises (R54, R55 (d)). -/
def Engine.enter (sw : Switch) (e : Engine) : Engine :=
  { e with st := .switching sw, swreqRises := e.swreqRises + 1 }

/-- An engine in IDLE or RUNNING enters SWITCHING (R55 (a), (b), (d), (e)). From IDLE there is no outgoing task. In any
other state nothing changes. -/
def State.beginSwitch (p : Pu) (why : SwitchReason) (dest : Dest) (s : State) : State :=
  let limit := s.frame.handoverLimit
  s.modEngine p fun e =>
    match e.st with
    | .idle => e.enter ⟨why, none, none, limit, limit⟩
    | .running t => e.enter ⟨why, some ⟨t, dest⟩, none, limit, limit⟩
    | _ => e

/-- A task a choice returned becomes CLAIMED; a choice that returned none leaves the slot empty (R57, R96). -/
def State.takeClaim (p : Pu) (o : Option TaskId) (s : State) : State :=
  match o with
  | some t => s.claimFor p t
  | none => s

/-- A switch that names a destination but no incoming task: the choice of claim is made at the same decision (R57). The
outgoing task is not a candidate. -/
def State.switchOut (p : Pu) (why : SwitchReason) (dest : Dest) (s : State) : State :=
  let c := (s.beginSwitch p why dest).unwind p none .none
  let s' := c.st.takeClaim p c.chosen
  s'.request (s'.readyRequests c.returned)

/-- The PU's own choice of next work, with reason UNWIND (R63 (a), R72, R90, R96 (b)). -/
def State.ownChoice (p : Pu) (s : State) : State :=
  let c := s.unwind p none .none
  let s' := match c.chosen with
    | some t => (c.st.beginSwitch p .unwind .readyHead).claimFor p t
    | none => c.st
  s'.request (s'.readyRequests c.returned)

/-! ### Urgent arrival (R87 to R90) -/

def Switch.setDest (d : Dest) (sw : Switch) : Switch :=
  { sw with outgoing := sw.outgoing.map fun o => { o with dest := d } }

/-- A nest, or a claim of an IDLE PU, for handler f (R87). -/
def State.nest (p : Pu) (f : TaskId) (s : State) : State := (s.beginSwitch p .urgent .displaced).claimFor p f

/-- A deferral is recorded (R89). -/
def State.defer (p : Pu) (s : State) : State :=
  (s.modEngine p fun e => { e with deferralCount := satInc e.deferralCount }).latch .urgentDeferred

/-- A NORMAL outgoing task bound for READY-head is to be displaced by the incoming handler (R88 (a)). -/
def State.displaceOutgoing (p : Pu) (s : State) : State :=
  match (s.engine p).st with
  | .switching sw =>
    match sw.outgoing with
    | some ⟨o, .readyHead⟩ => if s.isHandler o then s else s.modSwitch p (Switch.setDest .displaced)
    | _ => s
  | _ => s

/-- An urgent arrival at PU p, judged for the first runnable handler of its queue (R86 to R89). -/
def State.urgentArrival (p : Pu) (s : State) : State :=
  match s.firstRunnable p .none with
  | none => s
  | some f =>
    match (s.engine p).st with
    | .offline => s
    | .faulted => s
    | .idle => s.nest p f
    | .running t =>
      if s.isHandler t then
        if s.prio f < s.prio t then
          if (s.engine p).occupancy < Config.stackDepth then s.nest p f else s.defer p
        else s
      else s.nest p f
    | .switching sw =>
      match sw.claimed with
      | some c =>
        if s.isHandler c then if s.prio f < s.prio c then s.retarget p f else s
        else (s.retarget p f).displaceOutgoing p
      | none => (s.claimFor p f).displaceOutgoing p

/-- A re-evaluation of PU p's urgent queue (R90): the own choice of an IDLE PU, an urgent arrival otherwise. -/
def State.reEvaluate (p : Pu) (s : State) : State :=
  match (s.engine p).st with
  | .idle => s.ownChoice p
  | _ => s.urgentArrival p

/-! ### The pending outgoing destination -/

/-- The ranks of R58; rank 3 is that of a self command's destination. -/
def Dest.rank : Dest → Nat
  | .free => 6
  | .suspended _ => 5
  | .held => 4
  | .displaced => 2
  | .readyHead => 1

/-- The rank of the destination a self command names (R58). -/
def selfRank : Nat := 3

/-- A destination requested of a SWITCHING PU replaces the pending one if it ranks strictly higher (R58). A pending push
given up lowers the occupancy, and the PU re-evaluates its urgent queue at the same decision (R90 (c), log 8). -/
def State.requestDest (p : Pu) (d : Dest) (s : State) : State :=
  match (s.engine p).pendingDest with
  | some old =>
    if old.rank < d.rank then
      let s' := s.modSwitch p (Switch.setDest d)
      if old = .displaced then s'.reEvaluate p else s'
    else s
  | none => s

/-- PU p is asked to switch its running task out (R55, R58); OFFLINE, IDLE and FAULTED engines have none. -/
def State.askOut (p : Pu) (why : SwitchReason) (dest : Dest) (s : State) : State :=
  match (s.engine p).st with
  | .running _ => s.switchOut p why dest
  | .switching _ => s.requestDest p dest
  | _ => s

/-! ### New choices and withdrawal -/

/-- The switch is withdrawn: the engine returns to RUNNING with its outgoing task (R66). -/
def State.withdraw (p : Pu) (s : State) : State :=
  match (s.engine p).st with
  | .switching sw =>
    match sw.outgoing with
    | some o => s.setEngineState p (.running o.task)
    | none => s
  | _ => s

/-- The outgoing task that stands as the top of the stack in a new choice (R65 (a)). -/
def Switch.standing (sw : Switch) : Option TaskId :=
  match sw.outgoing with
  | some ⟨t, .displaced⟩ => some t
  | _ => none

/-- The outgoing task that counts as standing at the head of its ready queue (R65 (b)). -/
def State.outgoingAtHead (s : State) (sw : Switch) : Extra :=
  match sw.outgoing with
  | some ⟨t, .readyHead⟩ => if s.isHandler t then .none else .head t
  | _ => .none

/-- A SWITCHING PU whose claimed slot is empty makes a new choice of claim (R65). A choice that returns the outgoing task
withdraws the switch (R66); one that passes over it as the top of the stack turns DISPLACED into READY-head (R96 (a)). -/
def State.newChoice (p : Pu) (s : State) : State :=
  match (s.engine p).st with
  | .switching sw =>
    let c := s.unwind p sw.standing (s.outgoingAtHead sw)
    let s1 := if c.passedStanding then c.st.modSwitch p (Switch.setDest .readyHead) else c.st
    let s2 := match c.chosen with
      | some t => if sw.outgoing.map Outgoing.task = some t then s1.withdraw p else s1.claimFor p t
      | none => s1
    s2.request (s2.readyRequests c.returned)
  | _ => s

/-! ### Place request (R36) -/

/-- The PU of the greatest key, the lowest-numbered one where several have it. -/
def leastUrgentPu (key : Pu → Option Nat) : List Pu → Option Pu
  | [] => none
  | p :: ps =>
    match key p with
    | none => leastUrgentPu key ps
    | some n =>
      match leastUrgentPu key ps with
      | none => some p
      | some q => if n < (key q).getD 0 then some q else some p

/-- IDLE, or SWITCHING with an empty claimed slot (R36 (a)). -/
def Engine.freeForClaim (e : Engine) : Bool :=
  match e.st with
  | .idle => true
  | .switching sw => sw.claimed.isNone
  | _ => false

/-- R36 (b): the priority of the running task of a RUNNING PU, where t is eligible there and strictly more urgent. -/
def State.preemptKey (s : State) (t : TaskId) (p : Pu) : Option Nat :=
  match (s.engine p).st with
  | .running r => if s.eligible p t && s.prio t < s.prio r then some (s.prio r) else none
  | _ => none

/-- R36 (c): the priority of the NORMAL claim of a SWITCHING PU, where t is eligible there and strictly more urgent. -/
def State.retargetKey (s : State) (t : TaskId) (p : Pu) : Option Nat :=
  match (s.engine p).claimedTask with
  | some c => if s.eligible p t && !s.isHandler c && s.prio t < s.prio c then some (s.prio c) else none
  | none => none

/-- The place request for task t (R36), eligibility judged by the window of R167. For a task no longer READY it changes nothing
(R35). -/
def State.place (t : TaskId) (s : State) : State :=
  if (s.task t).state = .ready ∧ s.isHandler t = false then
    match all8.find? fun p => s.eligible p t && (s.engine p).freeForClaim with
    | some p => (s.beginSwitch p .preempt .readyHead).claimFor p t
    | none =>
      match leastUrgentPu (s.preemptKey t) all8 with
      | some p => (s.beginSwitch p .preempt .readyHead).claimFor p t
      | none =>
        match leastUrgentPu (s.retargetKey t) all8 with
        | some p => s.retarget p t
        | none => s
  else s

/-! ### Window re-evaluation (R164 to R166) -/

/-- A PU is RUNNING or SWITCHING. -/
def Engine.working (e : Engine) : Bool :=
  match e.st with
  | .running _ | .switching _ => true
  | _ => false

/-- R165 (b), (c), (d): the re-evaluation of a PU RUNNING task t. -/
def State.reEvaluateRunning (p : Pu) (t : TaskId) (s : State) : State :=
  if s.isHandler t then s
  else if s.mapAllows p t then
    match s.pickBelow p .none (s.prio t) with
    | some c => (s.beginSwitch p .preempt .readyHead).claimFor p c
    | none => s
  else s.switchOut p .window .readyHead

/-- R166: the re-evaluation of a SWITCHING PU. An empty slot is chosen anew, by the unwind choice where there is urgent
work (R65, log 28). -/
def State.reEvaluateSwitching (p : Pu) (sw : Switch) (s : State) : State :=
  match sw.claimed with
  | none => s.newChoice p
  | some c =>
    if s.underUrgentWork p || (s.engine p).pendingDest = some .displaced then s
    else if s.mapAllows p c then
      match s.pickBelow p (s.outgoingAtHead sw) (s.prio c) with
      | none => s
      | some n =>
        if sw.outgoing.map Outgoing.task = some n then
          ((s.returnClaim p).withdraw p).request [s.readyRequest c]
        else s.retarget p n
    else ((s.returnClaim p).newChoice p).request [s.readyRequest c]

/-- The window re-evaluation of PU p, judged against the state when it is taken (R165 to R167). The first one after
STOPPED or ARMED begins with the urgent queue of a PU at work (R164, log 9). With no window in force it claims nothing
(R167, log 20). -/
def State.windowReEvaluate (p : Pu) (first : Bool) (s : State) : State :=
  let s := if first && (s.engine p).working then s.urgentArrival p else s
  if s.frame.dispatching then
    match (s.engine p).st with
    | .idle => s.ownChoice p
    | .running t => s.reEvaluateRunning p t
    | .switching sw => s.reEvaluateSwitching p sw
    | .offline => s
    | .faulted => s
  else s

/-! ### Taking a task out of its place (R18, R21) -/

/-- Takes a task that is not RUNNING out of the place it holds; `final` gives it its new state. A PU that loses its claim
makes a new choice (R65); one that loses a stack entry re-evaluates its urgent queue at the same decision (R92 (b), log 8). -/
def State.takeOut (t : TaskId) (final : State → State) (s : State) : State :=
  match (s.task t).state with
  | .ready => final (s.leaveQueue t)
  | .claimed =>
    match s.puClaiming t with
    | some p => (final (s.modSwitch p fun sw => { sw with claimed := none })).newChoice p
    | none => s
  | .displaced =>
    match s.puStacking t with
    | some p => (final (s.setStack p (without t (s.engine p).stack))).reEvaluate p
    | none => s
  | .waiting => final ((s.leaveWaiters t).leaveDelayList t)
  | .dormant => final s
  | .held => final s
  | .suspended => final s
  | .running => s
  | .free => s

/-- The PU that runs t is asked to switch it out. -/
def State.askOutOf (t : TaskId) (why : SwitchReason) (dest : Dest) (s : State) : State :=
  match s.puRunning t with
  | some p => s.askOut p why dest
  | none => s

/-- The effects of SUSPEND by state of the named task (R18, R19). -/
def State.suspendTask (t : TaskId) (s : State) : State :=
  match (s.task t).state with
  | .running => s.askOutOf t .suspend (.suspended .command)
  | st =>
    s.takeOut t fun s => s.modTask t fun r =>
      { r with
        state := .suspended, stopReason := some .command
        waitResult := if st = .waiting then some .interrupted else r.waitResult }

/-- The effects of RETIRE by state of the named task (R21, R22). -/
def State.retireTask (t : TaskId) (s : State) : State :=
  match (s.task t).state with
  | .running => s.askOutOf t .retire .free
  | _ => s.takeOut t (State.freeTask t)

/-! ### The Selector's commands -/

/-- PLACE_REQUEST: takes an outstanding place request for task t (R35, R36). -/
def execPlaceRequest (t : Nth TaskId) (s : State) : Host.Outcome State Fault Refusal :=
  .next (s.awake (State.takeRequest (fun r => r = .place t.of) t.nth fun _ s => s.place t.of))

/-- URGENT_ARRIVAL: takes an outstanding urgent arrival at PU p (R87, R88) or re-evaluation of its urgent queue (R90). -/
def execUrgentArrival (p : Pu) (kind : Nth UrgentKind) (s : State) : Host.Outcome State Fault Refusal :=
  .next <| s.awake <| State.takeRequest (fun r => r = .urgent p kind.of) kind.nth fun _ s =>
    match kind.of with
    | .arrival => s.urgentArrival p
    | .reEvaluation => s.reEvaluate p

/-- Whether a request is a window re-evaluation of PU p. -/
def Request.isWindowOf (p : Pu) : Request → Bool
  | .window q _ => q = p
  | _ => false

/-- WINDOW_RE_EVALUATION: takes an outstanding window re-evaluation of PU p (R164 to R167). With it the former entry it
carried is gone: later place requests judge the new window (R167). -/
def execWindowReEvaluation (p : Nth Pu) (s : State) : Host.Outcome State Fault Refusal :=
  .next <| s.awake <| State.takeRequest (Request.isWindowOf p.of) p.nth fun r s =>
    match r with
    | .window _ former => s.windowReEvaluate p.of (former = none)
    | _ => s

end Sys2Proof.Machine
end

