-- ==== Sys2Proof/Machine/Partitions.lean ====
section
/-!
DEFINITION. Partition Control (Chapter 2): the halt request, the end of a purge, and HALT_PARTITION, RELEASE_PARTITION,
PURGE_PARTITION, READ_PARTITION.
-/

namespace Sys2Proof.Machine

/-! ### The order of the engines under one request (log 6) -/

/-- Puts p behind the engines whose key is not above p's. -/
def insertEngine (n : Nat) (p : Pu) : List Pu → List Pu
  | [] => [p]
  | y :: ys => if Config.freeEngineKey n y ≤ Config.freeEngineKey n p then y :: insertEngine n p ys else p :: y :: ys

/-- The engines in the order in which they take the request; the spec gives none (log 6). -/
def engineOrder (n : Nat) : List Pu → List Pu
  | [] => []
  | p :: ps => insertEngine n p (engineOrder n ps)

/-- Hands a request to each of these engines, each taken whole, in a free order. -/
def State.eachEngine (ps : List Pu) (act : Pu → State → State) (s : State) : State :=
  (engineOrder s.freeIndex ps).foldl (fun s p => act p s) { s with freeIndex := s.freeIndex + 1 }

/-! ### The halt request (R40) -/

def State.inPartition (s : State) (k : Partition) (o : Option TaskId) : Bool :=
  match o with
  | some t => (s.task t).partition = k
  | none => false

/-- Engine p takes a halt of partition k: its running task of k is asked out with READY-head (R40 (c)), a claimed task of
k is returned and a new choice made, with no place request (R40 (d)). A handler that enters its urgent queue is followed by
an urgent arrival (R86). -/
def State.haltEngine (k : Partition) (p : Pu) (s : State) : State :=
  let s1 := if s.inPartition k (s.engine p).runningTask then s.askOut p .halt .readyHead else s
  match (s1.engine p).claimedTask with
  | some c =>
    if s1.inPartition k (some c) then
      let s2 := (s1.returnClaim p).newChoice p
      if s1.isHandler c then s2.request [s1.readyRequest c] else s2
    else s1
  | none => s1

/-- The halt request for partition k (R40). -/
def State.haltPartition (k : Partition) (why : HaltReason) (s : State) : State :=
  if (s.part k).halted.isSome then s
  else
    let s1 := (s.setPart k { s.part k with halted := some why }).latch .partitionHalted
    let affected := all8.filter fun p =>
      s1.inPartition k (s1.engine p).runningTask || s1.inPartition k (s1.engine p).claimedTask
    s1.eachEngine affected (State.haltEngine k)

/-- HALT_REQUEST: takes the outstanding halt request that task t's budget made for partition k (R178). -/
def execHaltRequest (k : Partition) (t : TaskId) (s : State) : Host.Outcome State Fault Refusal :=
  .next (s.awake (State.takeRequest (fun r => r = .halt k t) 0 fun _ s => s.haltPartition k (.budget t)))

/-- HALT_PARTITION, performed (R42). -/
def State.haltCommand (p : Pu) (k : Partition) (s : State) : State :=
  let fresh := (s.part k).halted.isNone
  (s.haltPartition k .command).answer p [low k.val, low (flagCode fresh)]

def execHaltPartition (p : Pu) (s : State) : Host.Outcome State Fault Refusal :=
  .next <| s.takeCommand p 9 fun c =>
    s.checked p c .supervisor (partitionArgs c) (fun _ => none) fun k => s.haltCommand p k

/-! ### RELEASE_PARTITION (R43) -/

/-- The READY NORMAL tasks of partition k in ascending queue order (R43 (a)). -/
def State.readyOf (s : State) (k : Partition) : List TaskId := all8.flatMap fun q => s.readyQueue k q

/-- The PUs whose urgent queue holds a handler of partition k, ascending (R43 (b)). -/
def State.urgentPusOf (s : State) (k : Partition) : List Pu :=
  all8.filter fun p => (s.urgentQueue p).any fun t => (s.task t).partition = k

def State.releaseCommand (p : Pu) (k : Partition) (s : State) : State :=
  let s1 := s.setPart k { s.part k with halted := none }
  (s1.request ((s1.readyOf k).map Request.place ++ (s1.urgentPusOf k).map fun q => .urgent q .reEvaluation)).answer p
    [low k.val]

def execReleasePartition (p : Pu) (s : State) : Host.Outcome State Fault Refusal :=
  .next <| s.takeCommand p 10 fun c =>
    s.checked p c .supervisor (partitionArgs c)
      (fun k => if (s.part k).halted.isSome then none else some .refusedState) fun k => s.releaseCommand p k

/-! ### The end of a purge (R46) -/

/-- Every task of partition k other than the deferred task is FREE. -/
def State.othersFree (s : State) (k : Partition) (g : Purge) : Bool :=
  allTasks.all fun t => g.deferred = some t || (s.task t).state = .free || (s.task t).partition ≠ k

/-- The deferred task, while it is still a task of partition k that is not FREE. -/
def State.deferredLive (s : State) (k : Partition) (g : Purge) : Option TaskId :=
  match g.deferred with
  | some t => if (s.task t).state ≠ .free ∧ (s.task t).partition = k then some t else none
  | none => none

/-- The purge ends: its port is answered, and the deferred task is retired at the same decision (R46). -/
def State.endPurge (k : Partition) (g : Purge) (s : State) : State :=
  let s1 := match g.port with
    | some p => s.answer p [low k.val, low g.count]
    | none => s
  let s2 := s1.setPart k { s1.part k with purge := some { g with port := none, ended := true } }
  match s2.deferredLive k g with
  | some t => s2.retireTask t
  | none => s2

/-- Purging clears once the purge has ended and its deferred task is FREE (R46 (a) to (c)). -/
def State.clearPurge (k : Partition) (s : State) : State :=
  match (s.part k).purge with
  | some g =>
    if g.ended && (s.deferredLive k g).isNone then s.setPart k { s.part k with purge := none } else s
  | none => s

/-- A task of partition k has become FREE: a purge that waits for it may end (R46). -/
def State.settlePurge (k : Partition) (s : State) : State :=
  match (s.part k).purge with
  | some g => (if !g.ended && s.othersFree k g then s.endPurge k g else s).clearPurge k
  | none => s

/-! ### PURGE_PARTITION (R44) -/

/-- The tasks the pass retires, in ascending id order: those of k that are not FREE, but for the deferred task (R44 (g)). -/
def State.purgeList (s : State) (k : Partition) (deferred : Option TaskId) : List TaskId :=
  allTasks.filter fun t => (s.task t).state ≠ .free ∧ (s.task t).partition = k ∧ deferred ≠ some t

/-- The purge is taken; the port stays BUSY until its end (R44, R46). -/
def State.purgeCommand (p : Pu) (k : Partition) (s : State) : State :=
  let own := s.issuerTask p
  let deferred := if s.inPartition k own then own else none
  let s1 := s.setPart k
    { s.part k with purge := some ⟨(s.part k).memberCount, deferred, some p, false⟩ }
  ((s1.purgeList k deferred).foldl (fun s t => s.retireTask t) s1).settlePurge k

def execPurgePartition (p : Pu) (s : State) : Host.Outcome State Fault Refusal :=
  .next <| s.takeCommand p 11 fun c =>
    s.checked p c .supervisor (partitionArgs c)
      (fun k => if (s.part k).purge.isSome then some .refusedState else none) fun k => s.purgeCommand p k

/-! ### READ_PARTITION (R48) -/

def execReadPartition (p : Pu) (s : State) : Host.Outcome State Fault Refusal :=
  .next <| s.takeCommand p 12 fun c =>
    s.checked p c .user (partitionArgs c)
      (fun k => if s.inScope p k then none else some .refusedProtect) fun k => s.answer p (s.partitionWords k)

end Sys2Proof.Machine
end

