-- ==== Sys2Proof/Machine/Tasks.lean ====
section
/-!
DEFINITION. The Task Table's commands (Chapter 1): CREATE, START, SUSPEND, RESUME, RETIRE, SET_PRIORITY, SET_AFFINITY,
READ_TASK.
-/

namespace Sys2Proof.Machine

/-! ### CREATE (R15, R16) -/

/-- The lowest-numbered FREE id (R15). -/
def State.lowestFree (s : State) : Option TaskId := allTasks.find? fun t => (s.task t).state = .free

/-- The own-partition rule of R14 (c) for the record a CREATE names (log 17); "any" names none. -/
def State.createInScope (s : State) (p : Pu) (a : CreateArgs) : Bool :=
  match a.id with
  | some t => s.taskInScope p t
  | none => true

/-- The limits on a MANAGER issuer (R15 (b)): class NORMAL, privilege USER, its own partition. -/
def State.createAllowed (s : State) (p : Pu) (a : CreateArgs) : Bool :=
  s.effectivePrivilege p = some .supervisor ||
    (a.cls = .normal && a.privilege = .user && s.inScope p a.partition)

/-- The scope and state checks of CREATE (R14 (c), R15 (b) to (d)). -/
def State.createRefusal (s : State) (p : Pu) (a : CreateArgs) : Option Status :=
  if !s.createAllowed p a || !s.createInScope p a then some .refusedProtect
  else if (s.part a.partition).purge.isSome then some .refusedState
  else
    match a.id with
    | some t => if (s.task t).state = .free then none else some .refusedState
    | none => if s.lowestFree.isNone then some .noResource else none

/-- The record CREATE fills (R16). -/
def CreateArgs.record (a : CreateArgs) : TaskRecord :=
  { state := .dormant, partition := a.partition, priority := a.priority, cls := a.cls, privilege := a.privilege
    affinity := a.affinity, entryWord := a.entryWord, resumeWord := a.entryWord }

/-- The id CREATE takes: the named one, or the lowest-numbered FREE one (R15). -/
def State.createId (s : State) (a : CreateArgs) : Option TaskId :=
  match a.id with
  | some t => some t
  | none => s.lowestFree

def State.createCommand (p : Pu) (a : CreateArgs) (s : State) : State :=
  match s.createId a with
  | some t =>
    let s1 := s.setTask t a.record
    s1.answer p (s1.idStateWords t)
  | none => s

def execCreate (p : Pu) (s : State) : Host.Outcome State Fault Refusal :=
  .next <| s.takeCommand p 1 fun c =>
    s.checked p c .manager (createArgs c) (s.createRefusal p) fun a => s.createCommand p a

/-! ### The checks on a named task (R14 (c), (d)) -/

/-- Scope first, then the state the command asks for. -/
def State.taskRefusal (s : State) (p : Pu) (t : TaskId) (stateOk : Bool) : Option Status :=
  if s.taskInScope p t then if stateOk then none else some .refusedState else some .refusedProtect

/-- The partition of task t is purging. -/
def State.purging (s : State) (t : TaskId) : Bool := (s.part (s.task t).partition).purge.isSome

/-- Task t becomes READY at the tail of its queue; its place request or urgent arrival follows (R17, R20). -/
def State.readyTail (t : TaskId) (s : State) : State :=
  let s1 := s.makeReady t .tail
  s1.request [s1.readyRequest t]

/-! ### START, SUSPEND, RESUME, RETIRE -/

/-- START, performed (R17). -/
def State.startCommand (p : Pu) (t : TaskId) (s : State) : State :=
  let s1 := (s.modTask t fun r => { r with resumeWord := r.entryWord }).readyTail t
  s1.answer p (s1.idStateWords t)

def execStart (p : Pu) (s : State) : Host.Outcome State Fault Refusal :=
  .next <| s.takeCommand p 2 fun c =>
    s.checked p c .manager (taskArgs c)
      (fun t => s.taskRefusal p t ((s.task t).state = .dormant && !s.purging t)) fun t => s.startCommand p t

/-- The states in which SUSPEND is refused (R18). -/
def TaskState.suspendable : TaskState → Bool
  | .free | .dormant | .suspended => false
  | _ => true

/-- SUSPEND, performed (R18, R19): DEFERRED for a RUNNING task. -/
def State.suspendCommand (p : Pu) (t : TaskId) (s : State) : State :=
  let s1 := s.suspendTask t
  if (s.task t).state = .running then s1.answerDeferred p (s1.idStateWords t) else s1.answer p (s1.idStateWords t)

def execSuspend (p : Pu) (s : State) : Host.Outcome State Fault Refusal :=
  .next <| s.takeCommand p 3 fun c =>
    s.checked p c .manager (taskArgs c)
      (fun t => s.taskRefusal p t (s.task t).state.suspendable) fun t => s.suspendCommand p t

/-- RESUME, performed (R20). -/
def State.resumeCommand (p : Pu) (t : TaskId) (s : State) : State :=
  let s1 := s.readyTail t
  s1.answer p (s1.idStateWords t)

def execResume (p : Pu) (s : State) : Host.Outcome State Fault Refusal :=
  .next <| s.takeCommand p 4 fun c =>
    s.checked p c .manager (taskArgs c)
      (fun t => s.taskRefusal p t ((s.task t).state = .suspended && !s.purging t)) fun t => s.resumeCommand p t

/-- RETIRE, performed (R21, R22): DEFERRED for a RUNNING task. A purge of the task's partition may end (R46 (c)), after the
choice or re-evaluation that the retirement itself asks for (log 29). -/
def State.retireCommand (p : Pu) (t : TaskId) (s : State) : State :=
  let s1 := (s.retireTask t).settlePurge (s.task t).partition
  if (s.task t).state = .running then s1.answerDeferred p (s1.idStateWords t) else s1.answer p (s1.idStateWords t)

def execRetire (p : Pu) (s : State) : Host.Outcome State Fault Refusal :=
  .next <| s.takeCommand p 5 fun c =>
    s.checked p c .manager (taskArgs c)
      (fun t => s.taskRefusal p t ((s.task t).state ≠ .free)) fun t => s.retireCommand p t

/-! ### SET_PRIORITY (R23) -/

/-- The effects of a new priority by state of the named task (R23). A handler's PU re-evaluates its urgent queue at the same
decision (R90 (a), log 8). -/
def State.changePriority (t : TaskId) (q : Priority) (s : State) : State :=
  let set := State.modTask t fun r => { r with priority := q }
  match (s.task t).state with
  | .ready =>
    let s1 := (set (s.leaveQueue t)).enterQueue t .tail
    if s.isHandler t then s1.reEvaluate (s.task t).homePu
    else (s1.voidPlace t).request [.place t]
  | .waiting =>
    match (s.task t).waitChannel with
    | some c => (set (s.leaveWaiters t)).enterWaiters c t
    | none => set s
  | .running =>
    let s1 := set s
    match s.puRunning t with
    | some p =>
      match (s.engine p).st with
      | .running _ =>
        if s.isHandler t then s1.reEvaluate p
        else
          match s1.pickBelow p .none q.val with
          | some c => (s1.beginSwitch p .preempt .readyHead).claimFor p c
          | none => s1
      | _ => s1
    | none => s1
  | _ => set s

def State.setPriorityCommand (p : Pu) (a : TaskId × Priority) (s : State) : State :=
  let s1 := if (s.task a.1).priority = a.2 then s else s.changePriority a.1 a.2
  s1.answer p (s1.idStateWords a.1)

def execSetPriority (p : Pu) (s : State) : Host.Outcome State Fault Refusal :=
  .next <| s.takeCommand p 6 fun c =>
    s.checked p c .manager (priorityArgs c)
      (fun a => s.taskRefusal p a.1 ((s.task a.1).state ≠ .free)) fun a => s.setPriorityCommand p a

/-! ### SET_AFFINITY (R24) -/

/-- The effects of a new affinity by state of the named task (R24). -/
def State.changeAffinity (t : TaskId) (m : BitVec 8) (s : State) : State :=
  let s1 := s.modTask t fun r => { r with affinity := m }
  match (s.task t).state with
  | .ready => s1.request [.place t]
  | .claimed =>
    match s.puClaiming t with
    | some p => if m.getLsbD p.val then s1 else ((s1.returnClaim p).newChoice p).request [.place t]
    | none => s1
  | .running =>
    match s.puRunning t with
    | some p => if m.getLsbD p.val then s1 else s1.askOut p .affinity .readyHead
    | none => s1
  | _ => s1

def State.setAffinityCommand (p : Pu) (a : TaskId × BitVec 8) (s : State) : State :=
  let s1 := s.changeAffinity a.1 a.2
  s1.answer p (s1.idStateWords a.1)

def execSetAffinity (p : Pu) (s : State) : Host.Outcome State Fault Refusal :=
  .next <| s.takeCommand p 7 fun c =>
    s.checked p c .manager (affinityArgs c)
      (fun a => s.taskRefusal p a.1 ((s.task a.1).state ≠ .free && !s.isHandler a.1)) fun a => s.setAffinityCommand p a

/-! ### READ_TASK (R25) -/

def execReadTask (p : Pu) (s : State) : Host.Outcome State Fault Refusal :=
  .next <| s.takeCommand p 8 fun c =>
    s.checked p c .user (taskArgs c) (fun t => s.taskRefusal p t true) fun t => s.answer p (s.taskWords t)

end Sys2Proof.Machine
end

