-- ==== Sys2Proof/Machine/Handover.lean ====
section
/-!
DEFINITION. The PU Engines' commands (Chapter 3): HANDOVER, JOIN, LEAVE, READ_PU, RESET_PU, and the expiry of the handover
deadline.
-/

namespace Sys2Proof.Machine

/-! ### Completion of a switch (R61, R62) -/

/-- The word a HANDOVER or self command carries replaces the resume word; with none it is kept (R3, R61). -/
def State.storeWord (t : TaskId) (w : Option Word) (s : State) : State :=
  match w with
  | some x => s.modTask t fun r => { r with resumeWord := x }
  | none => s

/-- A task becomes FREE outside a purge's pass: a purge of its partition may end (R13, R46, log 21). That the purge's end, with
the switch of its deferred task and the choice of claim that switch makes (R46 (b), R57), comes before the issuing PU's own
choice at the same decision (R63 (a), R128) is the model's choice (log 29). -/
def State.freeAndSettle (t : TaskId) (s : State) : State := (s.freeTask t).settlePurge (s.task t).partition

/-- Task t becomes SUSPENDED with this stop reason. -/
def State.suspendAs (t : TaskId) (why : StopReason) (s : State) : State :=
  s.modTask t fun r => { r with state := .suspended, stopReason := some why }

/-- The outgoing task of PU p goes to its pending destination (R61). -/
def State.sendOut (p : Pu) (o : Outgoing) (w : Option Word) (s : State) : State :=
  match o.dest with
  | .free => s.freeAndSettle o.task
  | .suspended why => (s.storeWord o.task w).suspendAs o.task why
  | .held => (s.storeWord o.task w).modTask o.task fun r => { r with state := .held, stopReason := some .budget }
  | .displaced =>
    ((s.storeWord o.task w).modTask o.task fun r => { r with state := .displaced }).setStack p
      (o.task :: (s.engine p).stack)
  | .readyHead => (s.storeWord o.task w).makeReady o.task .head

/-- Task t becomes the RUNNING task of PU p, out of the claimed slot or of the queue it stood in (R6, R62, R96 (c)); its
wait result is delivered and removed (R4). -/
def State.run (p : Pu) (t : TaskId) (s : State) : State :=
  ((s.leaveQueue t).modTask t fun r =>
    { r with
      state := .running, dispatchCount := satInc r.dispatchCount, lastPu := some p, waitResult := none }).setEngineState
    p (.running t)

/-- The result words of a HANDOVER or a self command: the task delivered, its resume word and wait result, and the reason
of the switch that has ended (R203). -/
def State.deliveryWords (s : State) (incoming : Option TaskId) (why : Option SwitchReason) : List Word :=
  match incoming with
  | some t =>
    [low t.val, (s.task t).resumeWord, low (waitResultCode (s.task t).waitResult), low (switchReasonCode why)]
  | none => [low noneCode, 0, 0, low (switchReasonCode why)]

/-- The request for the outgoing task, where it has entered a queue (R63 (b)). -/
def State.outgoingRequests (s : State) (sw : Switch) : List Request :=
  match sw.outgoing with
  | some ⟨t, .readyHead⟩ => [s.readyRequest t]
  | _ => []

/-- The switch of PU p completes (R61 to R63). -/
def State.complete (p : Pu) (sw : Switch) (w : Option Word) (s : State) : State :=
  let s1 := match sw.outgoing with
    | some o => s.sendOut p o w
    | none => s
  let s2 := match sw.claimed with
    | some t => (s1.run p t).respond p .done .switched false (s1.deliveryWords (some t) (some sw.reason))
    | none =>
      ((s1.setEngineState p .idle).respond p .done .idle false (s1.deliveryWords none (some sw.reason))).ownChoice p
  s2.request (s1.outgoingRequests sw)

/-! ### HANDOVER (R60) -/

/-- The resume word HANDOVER carries; its "none" flag is bit 0 of ARG1 (R202). -/
def handoverArgs (c : Captured) : Option (Option Word) := some (if flagArg (c.arg 1) then none else some (c.arg 0))

/-- The table of R60, for the states that are not SWITCHING. -/
def EngineState.handoverRefusal : EngineState → Option Status
  | .switching _ => none
  | .running _ => some .stale
  | .idle => some .stale
  | .offline => some .refusedState
  | .faulted => some .puFaulted

def State.handoverCommand (p : Pu) (w : Option Word) (s : State) : State :=
  match (s.engine p).st with
  | .switching sw => s.complete p sw w
  | _ => s

def execHandover (p : Pu) (s : State) : Host.Outcome State Fault Refusal :=
  .next <| s.takeCommand p 15 fun c =>
    s.checked p c .puLevel (handoverArgs c) (fun _ => (s.engine p).st.handoverRefusal) fun w => s.handoverCommand p w

/-! ### JOIN and LEAVE (R72, R73) -/

/-- A command without argument words. -/
def noArgs (_ : Captured) : Option Unit := some ()

/-- The table of R72. -/
def EngineState.joinRefusal : EngineState → Option Status
  | .offline => none
  | .faulted => some .puFaulted
  | _ => some .refusedState

def State.joinCommand (p : Pu) (s : State) : State := ((s.setEngineState p .idle).answer p []).ownChoice p

def execJoin (p : Pu) (s : State) : Host.Outcome State Fault Refusal :=
  .next <| s.takeCommand p 13 fun c =>
    s.checked p c .puLevel (noArgs c) (fun _ => (s.engine p).st.joinRefusal) fun _ => s.joinCommand p

def State.leaveCommand (p : Pu) (s : State) : State := (s.setEngineState p .offline).answer p []

def execLeave (p : Pu) (s : State) : Host.Outcome State Fault Refusal :=
  .next <| s.takeCommand p 14 fun c =>
    s.checked p c .puLevel (noArgs c) (fun _ => if (s.engine p).st = .idle then none else some .refusedState)
      fun _ => s.leaveCommand p

/-! ### Taking a PU out of dispatch (R69 (a) to (d), R75 (d) to (g)) -/

/-- The running task leaves the slot: FREE where that is its pending destination, otherwise SUSPENDED and STRANDED with
the resume word it held. -/
def State.dropRunning (p : Pu) (s : State) : State :=
  match (s.engine p).runningTask with
  | some t => if (s.engine p).pendingDest = some .free then s.freeTask t else s.suspendAs t .stranded
  | none => s

/-- The tasks that return to their queues: the claimed task, then the stack, top first. -/
def Engine.held (e : Engine) : List TaskId := e.claimedTask.toList ++ e.stack

/-- Both slots and the stack of PU p are emptied and its engine takes this state. -/
def State.takeDown (p : Pu) (st : EngineState) (s : State) : State :=
  (((s.dropRunning p).returnClaim p).emptyStack p).setEngineState p st

/-- The partition of the running task of PU p. -/
def State.runningPartition (s : State) (p : Pu) : Option Partition :=
  (s.engine p).runningTask.map fun t => (s.task t).partition

/-- The requests for the tasks a PU gave up, and the end of a purge that waited for its running task: `held` and
`running` are read before the PU was taken down. -/
def State.afterTakeDown (held : List TaskId) (running : Option Partition) (s : State) : State :=
  let s1 := s.request (s.readyRequests held)
  match running with
  | some k => s1.settlePurge k
  | none => s1

/-! ### The handover deadline (R68, R69) -/

/-- The time that remains on the deadline timer, while it runs (R68). -/
def Engine.timeLeft (e : Engine) : Option (BitVec 8) :=
  match e.st with
  | .switching sw => some sw.remaining
  | _ => none

/-- `n` units of 4 µs pass on a running deadline timer (R68). -/
def Engine.elapse (n : BitVec 8) (e : Engine) : Engine :=
  match e.st with
  | .switching sw => { e with st := .switching { sw with remaining := sw.remaining - n } }
  | _ => e

/-- `n` units of 4 µs pass on every running deadline timer (log 1). -/
def State.elapse (n : BitVec 8) (s : State) : State := { s with engines := s.engines.map (Engine.elapse n) }

/-- No running deadline timer runs out within less than `n` units. -/
def State.noneSooner (n : BitVec 8) (s : State) : Bool :=
  all8.all fun q =>
    match (s.engine q).timeLeft with
    | some m => n ≤ m
    | none => true

/-- The lowest-numbered PU whose limit in force has elapsed (R68). -/
def State.firstDue (s : State) : Option Pu := all8.find? fun p => (s.engine p).timeLeft = some 0

/-- The effects of the expiry at PU p (R69). -/
def State.expireDeadline (p : Pu) (s : State) : State :=
  let s1 := (s.takeDown p .faulted).modEngine p fun e => { e with faultCount := satInc e.faultCount }
  ((s1.latch (.puFault p)).endOutstanding p .puFaulted).afterTakeDown (s.engine p).held (s.runningPartition p)

/-- HANDOVER_DEADLINE_EXPIRY at PU p: the timer, which runs only while p is SWITCHING, expires when its limit in force has
elapsed (R68). What was left of that time passes first, on every running timer. Where another timer runs out sooner, the row
stands for nothing that can come next and changes nothing (log 1). -/
def execHandoverDeadlineExpiry (p : Pu) (s : State) : Host.Outcome State Fault Refusal :=
  .next <| s.awake fun s =>
    match (s.engine p).timeLeft with
    | some n => if s.noneSooner n then (s.elapse n).expireDeadline p else s
    | none => s

/-- Time passes while no command waits: 4 µs on every running timer, or, where a limit in force has elapsed, the expiry it
brings (R68, log 1). -/
def execIdle (s : State) : Host.Outcome State Fault Refusal :=
  match s.firstDue with
  | some p => execHandoverDeadlineExpiry p s
  | none => .next (s.elapse 1)

/-! ### RESET_PU (R75) -/

def State.resetPuCommand (p : Pu) (target : Pu) (s : State) : State :=
  let former := (s.engine target).st.code
  (((s.takeDown target .offline).endOutstanding target .aborted).answer p [low target.val, low former]).afterTakeDown
    (s.engine target).held (s.runningPartition target)

def execResetPu (p : Pu) (s : State) : Host.Outcome State Fault Refusal :=
  .next <| s.takeCommand p 17 fun c =>
    s.checked p c .supervisor (puArgs c) (fun q => if q = p then some .refusedProtect else none)
      fun q => s.resetPuCommand p q

/-! ### READ_PU (R77) -/

def Engine.switchReason (e : Engine) : Option SwitchReason :=
  match e.st with
  | .switching sw => some sw.reason
  | _ => none

/-- The time that remains on the deadline timer, 0 where it is stopped (R77 (f)). -/
def Engine.shownRemaining (e : Engine) : Nat :=
  match e.timeLeft with
  | some n => n.toNat
  | none => 0

/-- The assignment, FFh for none (R204). -/
def State.assignmentCode (s : State) (p : Pu) : Nat :=
  match s.assignment p with
  | some m => m.code
  | none => noneCode

/-- The result words of READ_PU (R77, R205). -/
def State.puWords (s : State) (p : Pu) : List Word :=
  let e := s.engine p
  [ low p.val,
    packed [(0, e.st.code), (8, switchReasonCode e.switchReason), (16, destCode e.pendingDest),
      (24, stopReasonCode (e.pendingDest.bind Dest.stopReason)), (32, s.assignmentCode p)],
    packed [(0, optCode e.runningTask), (8, optCode e.claimedTask)],
    packedBytes (((e.stack.reverse.map Fin.val) ++ List.replicate 4 noneCode).take 4),
    packed [(0, e.stack.length), (8, e.occupancy), (16, (s.urgentQueue p).length)],
    packed [(0, e.faultCount.toNat), (8, e.deferralCount.toNat), (16, e.shownRemaining)] ]

def execReadPu (p : Pu) (s : State) : Host.Outcome State Fault Refusal :=
  .next <| s.takeCommand p 16 fun c =>
    s.checked p c .puLevel (puArgs c) (fun _ => none) fun q => s.answer p (s.puWords q)

end Sys2Proof.Machine
end

