-- ==== Sys2Proof/Machine/Channels.lean ====
section
/-!
DEFINITION. The Channel Unit (Chapter 5): arrivals, wakes, POST, READ_CHANNEL, BIND, MASK, UNMASK, the event lines; and the
expiry of the Delay List (6.6), which wakes in the same way.
-/

namespace Sys2Proof.Machine

/-! ### Units (R108) -/

/-- A rise of the pending count by n would take it above 255. -/
def Channel.overflows (r : Channel) (n : Nat) : Bool := 255 < r.pendingCount.toNat + n

/-- The pending count rises by n and stops at 255; surplus units set the saturated flag. -/
def Channel.addUnits (n : Nat) (r : Channel) : Channel :=
  if r.overflows n then { r with pendingCount := 255, saturated := true }
  else { r with pendingCount := r.pendingCount + BitVec.ofNat 8 n }

def State.addPending (c : ChannelId) (n : Nat) (s : State) : State :=
  let s1 := s.modChannel c (Channel.addUnits n)
  if (s.channel c).overflows n then s1.latch .pendingSaturated else s1

/-! ### Wakes (R112, R141) -/

/-- Task t leaves its waiter list and the Delay List with this wait result and becomes READY at the tail. -/
def State.wake (t : TaskId) (result : WaitResult) (s : State) : State :=
  (((s.leaveWaiters t).leaveDelayList t).modTask t fun r => { r with waitResult := some result }).makeReady t .tail

/-- The tasks are woken in list order; their requests follow in that order (R113, R142). -/
def State.wakeAll (result : State → TaskId → WaitResult) (ts : List TaskId) (s : State) : State :=
  let s1 := ts.foldl (fun s t => s.wake t (result s t)) s
  s1.request (s1.readyRequests ts)

/-! ### Arrivals (R109, R110) -/

/-- The waiters an arrival of n wakes: none while masked, the first n of a SIGNAL channel, all of a PULSE channel. -/
def Channel.wokenBy (r : Channel) (n : Nat) : List TaskId :=
  if r.masked then []
  else
    match r.mode with
    | .signal => r.waiters.take n
    | .pulse => r.waiters

/-- The units of an arrival of n that the channel keeps. -/
def Channel.keptOf (r : Channel) (n : Nat) : Nat :=
  if r.masked then
    match r.disposition with
    | .hold => n
    | .drop => 0
  else
    match r.mode with
    | .signal => n - r.waiters.length
    | .pulse => 0

/-- An arrival of n at channel c. -/
def State.arrive (c : ChannelId) (n : Nat) (s : State) : State :=
  let r := s.channel c
  ((s.modChannel c fun r => { r with arrivalCount := r.arrivalCount + 1 }).addPending c (r.keptOf n)).wakeAll
    (fun _ _ => .signalled) (r.wokenBy n)

/-! ### POST (R116) -/

/-- The issuer may post to the channel: SUPERVISOR to any, otherwise by the post rights of its partition. -/
def State.mayPost (s : State) (p : Pu) (c : ChannelId) : Bool :=
  s.effectivePrivilege p = some .supervisor ||
    match s.issuerTask p with
    | some t => (s.channel c).postRights.getLsbD (s.task t).partition.val
    | none => false

def State.postCommand (p : Pu) (a : ChannelId × BitVec 8) (s : State) : State :=
  let s1 := s.arrive a.1 a.2.toNat
  s1.answer p
    [low a.1.val, low ((s.channel a.1).wokenBy a.2.toNat).length, low (s1.channel a.1).pendingCount.toNat,
      low (flagCode (s1.channel a.1).saturated)]

def execPost (p : Pu) (s : State) : Host.Outcome State Fault Refusal :=
  .next <| s.takeCommand p 18 fun c =>
    s.checked p c .user (postArgs c) (fun a => if s.mayPost p a.1 then none else some .refusedProtect)
      fun a => s.postCommand p a

/-! ### READ_CHANNEL, MASK, UNMASK, BIND -/

def execReadChannel (p : Pu) (s : State) : Host.Outcome State Fault Refusal :=
  .next <| s.takeCommand p 19 fun c =>
    s.checked p c .user (channelArgs c) (fun _ => none) fun ch => s.answer p (s.channelWords ch)

/-- MASK, performed (R117). -/
def State.maskCommand (p : Pu) (c : ChannelId) (s : State) : State :=
  (s.modChannel c fun r => { r with masked := true }).answer p [low c.val, low (s.channel c).pendingCount.toNat]

def execMask (p : Pu) (s : State) : Host.Outcome State Fault Refusal :=
  .next <| s.takeCommand p 21 fun c =>
    s.checked p c .supervisor (channelArgs c) (fun _ => none) fun ch => s.maskCommand p ch

/-- The waiters UNMASK wakes (R118); none on a channel already unmasked. -/
def Channel.wokenByUnmask (r : Channel) : List TaskId :=
  if r.masked then
    match r.mode with
    | .signal => r.waiters.take r.pendingCount.toNat
    | .pulse => if r.pendingCount = 0 then [] else r.waiters
  else []

/-- The record after UNMASK, before its waiters leave (R118). -/
def Channel.unmasked (r : Channel) : Channel :=
  if r.masked then
    match r.mode with
    | .signal => { r with masked := false, pendingCount := r.pendingCount - BitVec.ofNat 8 r.wokenByUnmask.length }
    | .pulse => { r with masked := false, pendingCount := 0 }
  else r

/-- UNMASK, performed (R118). -/
def State.unmaskCommand (p : Pu) (c : ChannelId) (s : State) : State :=
  let woken := (s.channel c).wokenByUnmask
  ((s.modChannel c Channel.unmasked).wakeAll (fun _ _ => .signalled) woken).answer p
    [low c.val, low woken.length, low (s.channel c).unmasked.pendingCount.toNat]

def execUnmask (p : Pu) (s : State) : Host.Outcome State Fault Refusal :=
  .next <| s.takeCommand p 22 fun c =>
    s.checked p c .supervisor (channelArgs c) (fun _ => none) fun ch => s.unmaskCommand p ch

/-- Channels 0 to 15 are of kind LINE (R103). -/
def isLine (c : ChannelId) : Bool := decide (c.val < 16)

/-- The record after BIND, before its waiters leave (R119). -/
def Channel.bound (a : BindArgs) (r : Channel) : Channel :=
  { r with
    mode := a.mode
    edge := if isLine a.channel then a.edge else .rising
    masked := a.masked
    disposition := a.disposition
    pendingCount := 0
    saturated := false
    postRights := if isLine a.channel then 0 else a.postRights }

/-- BIND, performed (R119, R120). -/
def State.bindCommand (p : Pu) (a : BindArgs) (s : State) : State :=
  let released := (s.channel a.channel).waiters
  ((s.modChannel a.channel (Channel.bound a)).wakeAll (fun _ _ => .channelReset) released).answer p
    [low a.channel.val, low released.length]

def execBind (p : Pu) (s : State) : Host.Outcome State Fault Refusal :=
  .next <| s.takeCommand p 20 fun c =>
    s.checked p c .supervisor (bindArgs c) (fun _ => none) fun a => s.bindCommand p a

/-! ### Event lines (R111, R206) -/

/-- A change of level that the edge selection takes for an arrival. -/
def EdgeSel.takes (e : EdgeSel) (level : Bool) : Bool :=
  match e with
  | .rising => level
  | .falling => !level
  | .both => true

/-- The levels with one line's level replaced. -/
def withLevel (n : Line) (level : Bool) (v : BitVec 16) : BitVec 16 :=
  if level then v ||| (1#16 <<< n.val) else v &&& ~~~(1#16 <<< n.val)

/-- The LINE channel of a line. -/
def Line.channel (n : Line) : ChannelId := ⟨n.val, Nat.lt_of_lt_of_le n.isLt (by decide)⟩

/-- EVENT_LINE_EDGE: line EVn stands at this level. While RESET# is low the level is only noted (R206). -/
def execEventLineEdge (n : Line) (level : Bool) (s : State) : Host.Outcome State Fault Refusal :=
  let s1 := { s with pins := { s.pins with events := withLevel n level s.pins.events } }
  .next <|
    if s.pins.resetLow = false ∧ s.pins.events.getLsbD n.val ≠ level ∧ (s.channel (Line.channel n)).edge.takes level then
      s1.arrive (Line.channel n) 1
    else s1

/-! ### Expiry of the Delay List (R141, R142) -/

/-- The entries due at a tick that carries this counter value, in list order. -/
def State.dueEntries (s : State) (counter : BitVec 32) : List TaskId :=
  s.delayList.filter fun t => dueAt counter (s.wakeOf t)

/-- TIMEOUT for a timed WAIT, ELAPSED for a DELAY: the record tells them apart (R139). -/
def State.expiryResult (s : State) (t : TaskId) : WaitResult :=
  if (s.task t).waitChannel.isSome then .timeout else .elapsed

/-- The Delay List takes a tick (R141). -/
def State.takeDelayTick (counter : BitVec 32) (s : State) : State := s.wakeAll State.expiryResult (s.dueEntries counter)

def Request.isDelayTick : Request → Bool
  | .tickDelay _ => true
  | _ => false

/-- DELAY_LIST_EXPIRY: the Delay List takes the earliest outstanding tick (log 4). -/
def execDelayListExpiry (s : State) : Host.Outcome State Fault Refusal :=
  .next <| s.awake <| State.takeRequest Request.isDelayTick 0 fun r s =>
    match r with
    | .tickDelay counter => s.takeDelayTick counter
    | _ => s

end Sys2Proof.Machine
end

