-- ==== Sys2Proof/Machine/SelfCommands.lean ====
section
/-!
DEFINITION. The self commands (Chapter 6): YIELD, WAIT, DELAY, FINISH, READ_SELF.
-/

namespace Sys2Proof.Machine

/-! ### The next task (R126 (c), R127, R128) -/

/-- The task a choice returned becomes RUNNING at once, or the PU is IDLE; the response delivers it. The requests are those
of the tasks that entered a queue, in the order of their entry. -/
def State.deliver (p : Pu) (c : Choice) (why : Option SwitchReason) (superseded : Bool) (entered : List TaskId) : State :=
  let s := c.st
  let s1 := match c.chosen with
    | some t => (s.run p t).respond p .done .switched superseded (s.deliveryWords (some t) why)
    | none => (s.setEngineState p .idle).respond p .done .idle superseded (s.deliveryWords none why)
  s1.request (s1.readyRequests (entered ++ c.returned))

/-- The task stays in the running slot: CONTINUE with the word the command carried (R127). -/
def State.continueSelf (p : Pu) (t : TaskId) (w : Word) (result : Option WaitResult) (s : State) : State :=
  s.respond p .done .continue false [low t.val, w, low (waitResultCode result), 0]

/-- The outgoing task of a SWITCHING PU has reached its destination: the claimed task, or else the task of a choice made
at this decision, becomes RUNNING (R128). -/
def State.finishSwitch (p : Pu) (sw : Switch) (superseded : Bool) (entered : List TaskId) (s : State) : State :=
  let c := match sw.claimed with
    | some t => ⟨s, some t, [], false⟩
    | none => s.unwind p none .none
  State.deliver p c (some sw.reason) superseded entered

/-! ### A self command on a SWITCHING PU (R59, R128, R129) -/

/-- The pending destination supersedes a self command (R59 (c)). -/
def Dest.supersedes (d : Dest) : Bool := selfRank < d.rank

/-- The self command is not performed: its task learns so by INTERRUPTED, unless it becomes FREE (R129). -/
def State.supersede (p : Pu) (sw : Switch) (o : Outgoing) (w : Word) (s : State) : State :=
  let s1 := if o.dest = .free then s else s.modTask o.task fun r => { r with waitResult := some .interrupted }
  (s1.sendOut p o (some w)).finishSwitch p sw true []

/-- The command's destination replaces a pending READY-head or DISPLACED; `place` puts the task there. A pending push given
up lowers the occupancy (R58, R90 (c), log 8). -/
def State.replaceDest (p : Pu) (sw : Switch) (o : Outgoing) (w : Word) (place : State → State) (s : State) : State :=
  let s1 := (place (s.storeWord o.task (some w))).finishSwitch p sw false []
  if o.dest = .displaced then s1.request [.urgent p .reEvaluation] else s1

/-- A self command that takes its task off the PU: WAIT enlisted, DELAY, FINISH. -/
def State.leaveBy (p : Pu) (t : TaskId) (w : Word) (place : State → State) (s : State) : State :=
  match (s.engine p).st with
  | .switching sw =>
    match sw.outgoing with
    | some o => if o.dest.supersedes then s.supersede p sw o w else s.replaceDest p sw o w place
    | none => s
  | _ => State.deliver p ((place (s.storeWord t (some w))).unwind p none .none) none false []

/-! ### YIELD (R131, R132) -/

/-- YIELD on a RUNNING PU: the yielding task counts in the choice as standing at the tail of its place. -/
def State.yieldRunning (p : Pu) (t : TaskId) (w : Word) (s : State) : State :=
  let c := (s.storeWord t (some w)).unwind p none (.tail t)
  if c.chosen = some t then
    let s1 := c.st.continueSelf p t w none
    s1.request (s1.readyRequests c.returned)
  else State.deliver p { c with st := c.st.makeReady t .tail } none false [t]

/-- YIELD on a SWITCHING PU (R59 (b), R128 (b)). -/
def State.yieldSwitching (p : Pu) (sw : Switch) (o : Outgoing) (w : Word) (s : State) : State :=
  match o.dest with
  | .readyHead =>
    ((s.storeWord o.task (some w)).makeReady o.task .tail).finishSwitch p sw false [o.task]
  | .displaced => (s.sendOut p o (some w)).finishSwitch p sw false []
  | _ => s.supersede p sw o w

def State.yieldCommand (p : Pu) (t : TaskId) (w : Word) (s : State) : State :=
  match (s.engine p).st with
  | .switching sw =>
    match sw.outgoing with
    | some o => s.yieldSwitching p sw o w
    | none => s
  | _ => s.yieldRunning p t w

/-- The resume word a self command carries in ARG0 (R202). -/
def wordArgs (c : Captured) : Option Word := some (c.arg 0)

def execYield (p : Pu) (s : State) : Host.Outcome State Fault Refusal :=
  .next <| s.takeCommand p 23 fun c =>
    s.selfChecked p c (wordArgs c) fun t w => s.yieldCommand p t w

/-! ### WAIT (R133 to R135) -/

/-- The channel can give a unit at once (R106 (a)). -/
def Channel.givesUnit (r : Channel) : Bool := r.mode = .signal && !r.masked && 0 < r.pendingCount.toNat

/-- One unit is taken (R106 (a)). -/
def State.takeUnit (c : ChannelId) (s : State) : State :=
  s.modChannel c fun r => { r with pendingCount := r.pendingCount - 1 }

/-- Task t becomes WAITING on the channel, and on the Delay List where the timeout is not 0 (R133 (a)). -/
def State.enlist (t : TaskId) (c : ChannelId) (timeout : BitVec 32) (s : State) : State :=
  let s1 := (s.modTask t fun r => { r with state := .waiting }).enterWaiters c t
  if timeout = 0 then s1 else s1.enterDelayList t timeout

/-- The unit is given to a task that leaves its PU: SIGNALLED stands in its record (R135 (a), (b)). -/
def State.signal (t : TaskId) (c : ChannelId) (s : State) : State :=
  (s.takeUnit c).modTask t fun r => { r with waitResult := some .signalled }

/-- The outgoing task goes to its pending destination with a WAIT that was satisfied (R135). -/
def State.waitSatisfied (p : Pu) (sw : Switch) (o : Outgoing) (w : Word) (c : ChannelId) (s : State) : State :=
  ((s.signal o.task c).sendOut p o (some w)).finishSwitch p sw false (if o.dest = .readyHead then [o.task] else [])

/-- WAIT on a SWITCHING PU (R135). -/
def State.waitSwitching (p : Pu) (sw : Switch) (o : Outgoing) (w : Word) (a : ChannelId × BitVec 32) (s : State) : State :=
  if (s.channel a.1).givesUnit ∧ o.dest ≠ .free then s.waitSatisfied p sw o w a.1
  else if o.dest.supersedes then s.supersede p sw o w
  else s.replaceDest p sw o w (State.enlist o.task a.1 a.2)

/-- WAIT satisfied at once on a RUNNING PU (R134). -/
def State.waitContinue (p : Pu) (t : TaskId) (w : Word) (c : ChannelId) (s : State) : State :=
  (((s.takeUnit c).storeWord t (some w)).modTask t fun r => { r with waitResult := none }).continueSelf p t w
    (some .signalled)

def State.waitCommand (p : Pu) (t : TaskId) (w : Word) (a : ChannelId × BitVec 32) (s : State) : State :=
  match (s.engine p).st with
  | .switching sw =>
    match sw.outgoing with
    | some o => s.waitSwitching p sw o w a
    | none => s
  | _ =>
    if (s.channel a.1).givesUnit then s.waitContinue p t w a.1
    else s.leaveBy p t w (State.enlist t a.1 a.2)

def execWait (p : Pu) (s : State) : Host.Outcome State Fault Refusal :=
  .next <| s.takeCommand p 24 fun c =>
    s.selfChecked p c (waitArgs c) fun t a => s.waitCommand p t (c.arg 0) a

/-! ### DELAY and FINISH (R136, R137) -/

/-- Task t becomes WAITING on the Delay List alone (R136). -/
def State.startDelay (t : TaskId) (ticks : BitVec 32) (s : State) : State :=
  (s.modTask t fun r => { r with state := .waiting }).enterDelayList t ticks

def execDelay (p : Pu) (s : State) : Host.Outcome State Fault Refusal :=
  .next <| s.takeCommand p 25 fun c =>
    s.selfChecked p c (delayArgs c) fun t ticks => s.leaveBy p t (c.arg 0) (State.startDelay t ticks)

/-- Task t becomes DORMANT at its entry word, its wait result removed (R137). -/
def State.finish (t : TaskId) (s : State) : State :=
  s.modTask t fun r => { r with state := .dormant, resumeWord := r.entryWord, waitResult := none }

def execFinish (p : Pu) (s : State) : Host.Outcome State Fault Refusal :=
  .next <| s.takeCommand p 26 fun c =>
    s.selfChecked p c (wordArgs c) fun t w => s.leaveBy p t w (State.finish t)

/-! ### READ_SELF (R138) -/

def execReadSelf (p : Pu) (s : State) : Host.Outcome State Fault Refusal :=
  .next <| s.takeCommand p 27 fun c =>
    s.selfChecked p c (noArgs c) fun t _ => s.answer p (s.taskWords t)

end Sys2Proof.Machine
end

