-- ==== Sys2Proof/Machine/Budgets.lean ====
section
/-!
DEFINITION. The Budget Monitor (Chapter 8): the charge and its thresholds, the frame start, SET_BUDGET.
-/

namespace Sys2Proof.Machine

/-! ### The charge (R173 to R176) -/

/-- The record with one tick charged (R173). -/
def TaskRecord.charged (r : TaskRecord) : TaskRecord := { r with budgetUsed := satInc r.budgetUsed }

/-- The charge that left this record warns (R175). -/
def TaskRecord.warns (r : TaskRecord) : Bool :=
  0 < r.budgetWarn.toNat && r.budgetWarn.toNat ≤ r.budgetUsed.toNat && !r.warnFlag

/-- The charge that left this record acts on the limit (R176). -/
def TaskRecord.limits (r : TaskRecord) : Bool :=
  0 < r.budgetLimit.toNat && r.budgetLimit.toNat ≤ r.budgetUsed.toNat && !r.limitMark

/-- R175. -/
def State.warnTest (t : TaskId) (s : State) : State :=
  if (s.task t).warns then (s.modTask t fun r => { r with warnFlag := true }).latch .budgetWarn else s

/-- R176 (a) to (c). -/
def State.markLimit (t : TaskId) (s : State) : State :=
  (s.modTask t fun r => { r with limitMark := true, overrunCount := satInc r.overrunCount }).latch .budgetLimit

/-- The budget action (R176 (d), R177, R178). -/
def State.budgetAction (p : Pu) (t : TaskId) (s : State) : State :=
  match (s.task t).budgetAction with
  | .note => s
  | .hold => s.askOut p .budget .held
  | .stop => s.askOut p .budget (.suspended .budget)
  | .halt => s.request [.halt (s.task t).partition t]

/-- R176. -/
def State.limitTest (p : Pu) (t : TaskId) (s : State) : State :=
  if (s.task t).limits then (s.markLimit t).budgetAction p t else s

/-- The charge of PU p (R173): the warning is given first (R176). -/
def State.charge (p : Pu) (s : State) : State :=
  match (s.engine p).runningTask with
  | some t => ((s.modTask t TaskRecord.charged).warnTest t).limitTest p t
  | none => s

/-- The charge of PU p would act on a limit. -/
def State.chargeActs (s : State) (p : Pu) : Bool :=
  match (s.engine p).runningTask with
  | some t => (s.task t).charged.limits
  | none => false

/-- BUDGET_LIMIT_REACHED: the Budget Monitor takes an outstanding charge of PU p (log 4). -/
def execBudgetLimitReached (p : Pu) (s : State) : Host.Outcome State Fault Refusal :=
  .next (s.awake (State.takeRequest (fun r => r = .charge p) 0 fun _ s => s.charge p))

/-! ### The frame start (R180) -/

/-- R180 (a) to (c). -/
def TaskRecord.renewed (r : TaskRecord) : TaskRecord :=
  { r with budgetUsed := 0, warnFlag := false, limitMark := false }

/-- The HELD tasks, in ascending id order. -/
def State.heldTasks (s : State) : List TaskId := allTasks.filter fun t => (s.task t).state = .held

/-- Every allowance is renewed and every HELD task released (R180). -/
def State.takeFrameStart (s : State) : State :=
  let s1 := s.heldTasks.foldl (fun s t => s.makeReady t .tail) { s with tasks := s.tasks.map TaskRecord.renewed }
  s1.request (s1.readyRequests s.heldTasks)

/-- BUDGET_FRAME_START: the Budget Monitor takes an outstanding frame start (R180). -/
def execBudgetFrameStart (s : State) : Host.Outcome State Fault Refusal :=
  .next (s.awake (State.takeRequest (fun r => r = .budgetFrameStart) 0 fun _ s => s.takeFrameStart))

/-! ### SET_BUDGET (R182, R183) -/

/-- The record SET_BUDGET leaves (R183). -/
def TaskRecord.budgeted (a : BudgetArgs) (r : TaskRecord) : TaskRecord :=
  { r with
    budgetLimit := a.limit, budgetWarn := a.warn, budgetAction := a.action
    warnFlag := false, limitMark := false, overrunCount := 0 }

def State.setBudgetCommand (p : Pu) (a : BudgetArgs) (s : State) : State :=
  (s.modTask a.task (TaskRecord.budgeted a)).answer p
    (s.idStateWords a.task ++ [low (s.task a.task).budgetUsed.toNat])

def execSetBudget (p : Pu) (s : State) : Host.Outcome State Fault Refusal :=
  .next <| s.takeCommand p 35 fun c =>
    s.checked p c .manager (budgetArgs c)
      (fun a => s.taskRefusal p a.task ((s.task a.task).state ≠ .free)) fun a => s.setBudgetCommand p a

end Sys2Proof.Machine
end

