-- ==== Sys2Proof/Machine/Frame.lean ====
section
/-!
DEFINITION. The Frame Unit (Chapter 7): CONFIGURE, the plan commands, the schedule commands, frame and window starts, the
tick and its parts, FSYNC.
-/

namespace Sys2Proof.Machine

/-! ### CONFIGURE (R148) -/

def ConfigArgs.apply (a : ConfigArgs) (f : FrameUnit) : FrameUnit :=
  { f with
    tickPeriod := a.tickPeriod, handoverLimit := a.handoverLimit, syncMode := a.syncMode, gapLimit := a.gapLimit }

def State.configureCommand (p : Pu) (a : ConfigArgs) (s : State) : State :=
  ({ s with frame := a.apply s.frame }).answer p
    [low a.tickPeriod.toNat, low a.handoverLimit.toNat, low a.syncMode.code, low a.gapLimit.toNat]

def execConfigure (p : Pu) (s : State) : Host.Outcome State Fault Refusal :=
  .next <| s.takeCommand p 28 fun c =>
    s.checked p c .supervisor (configArgs c)
      (fun _ => if s.frame.state = .stopped then none else some .refusedState) fun a => s.configureCommand p a

/-! ### The plan banks (R151 to R154) -/

def FrameUnit.setBank (id : BankId) (x : Bank) (f : FrameUnit) : FrameUnit :=
  match id with
  | .a => { f with bankA := x }
  | .b => { f with bankB := x }

/-- The standby bank is replaced; no plan command writes the active one (R150). -/
def FrameUnit.setStandby (x : Bank) (f : FrameUnit) : FrameUnit := f.setBank f.active.other x

/-- While the countdown is above 0 the standby bank is closed (R151 (c), R152). -/
def FrameUnit.standbyRefusal (f : FrameUnit) : Option Status := if f.countdown = 0 then none else some .refusedState

def Bank.write (i : WindowIndex) (w : Window) (x : Bank) : Bank := { x with windows := put x.windows i w }

def State.writeWindowCommand (p : Pu) (a : WindowIndex × Window) (s : State) : State :=
  ({ s with frame := s.frame.setStandby (s.frame.standbyBank.write a.1 a.2) }).answer p
    [low s.frame.active.other.code, low a.1.val]

def execWriteWindow (p : Pu) (s : State) : Host.Outcome State Fault Refusal :=
  .next <| s.takeCommand p 31 fun c =>
    s.checked p c .supervisor (windowArgs c) (fun _ => s.frame.standbyRefusal) fun a => s.writeWindowCommand p a

def State.setPlanLengthCommand (p : Pu) (n : Fin 25) (s : State) : State :=
  ({ s with frame := s.frame.setStandby { s.frame.standbyBank with count := n } }).answer p
    [low s.frame.active.other.code, low n.val]

def execSetPlanLength (p : Pu) (s : State) : Host.Outcome State Fault Refusal :=
  .next <| s.takeCommand p 32 fun c =>
    s.checked p c .supervisor (countArgs c) (fun _ => s.frame.standbyRefusal) fun n => s.setPlanLengthCommand p n

/-- A standby bank without windows cannot be armed (R153 (a)). -/
def FrameUnit.armRefusal (f : FrameUnit) (n : BitVec 8) : Option Status :=
  if n ≠ 0 ∧ f.standbyBank.count.val = 0 then some .refusedState else none

def State.armPlanSwitchCommand (p : Pu) (n : BitVec 8) (s : State) : State :=
  ({ s with frame := { s.frame with countdown := n } }).answer p [low n.toNat]

def execArmPlanSwitch (p : Pu) (s : State) : Host.Outcome State Fault Refusal :=
  .next <| s.takeCommand p 33 fun c =>
    s.checked p c .supervisor (framesArgs c) s.frame.armRefusal fun n => s.armPlanSwitchCommand p n

/-- The result words of READ_PLAN (R154, log 16). -/
def FrameUnit.planWords (f : FrameUnit) (id : BankId) (i : WindowIndex) : List Word :=
  let w := (f.bank id).windows[i]
  [ low id.code, low (flagCode (f.active = id)), low (f.bank id).count.val, low f.countdown.toNat, low w.length.toNat,
    packedBytes (w.map.toList.map MapEntry.code) ]

def execReadPlan (p : Pu) (s : State) : Host.Outcome State Fault Refusal :=
  .next <| s.takeCommand p 34 fun c =>
    s.checked p c .supervisor (readPlanArgs c) (fun _ => none) fun a => s.answer p (s.frame.planWords a.1 a.2)

/-! ### Frame starts and window starts (R157, R158, R164) -/

/-- The Frame Unit's own part of a frame start (R157 (a) to (c)). -/
def FrameUnit.startFrame (f : FrameUnit) : FrameUnit :=
  let active := if f.countdown = 1 then f.active.other else f.active
  { f with
    countdown := if f.countdown = 0 then 0 else f.countdown - 1
    active := active
    frameCounter := f.frameCounter + 1
    gapTicks := 0
    state := .framing
    windowIndex := 0
    ticksRemaining := ((f.bank active).windows[0]).length }

/-- The PUs whose map entry differs between two windows in force, ascending (R164). -/
def changedPus (before after : Window) : List Pu := all8.filter fun p => before.map[p] ≠ after.map[p]

/-- The window re-evaluations of a start: every PU where no window was in force before (R164). Each carries the PU's entry in
the former window (R167). -/
def windowRequests (before after : Option Window) : List Request :=
  match before, after with
  | some old, some new => (changedPus old new).map fun p => .window p (some old.map[p])
  | _, _ => all8.map fun p => .window p none

/-- A frame start (R157). The re-evaluations and the Budget Monitor's frame start are not ordered. -/
def State.frameStart (s : State) : State :=
  let f := s.frame.startFrame
  (({ s with frame := f }).request (windowRequests s.frame.windowInForce f.windowInForce)).request [.budgetFrameStart]

/-- A window start within the frame (R158 (a)). -/
def State.windowStart (i : WindowIndex) (s : State) : State :=
  let f := { s.frame with windowIndex := i, ticksRemaining := (s.frame.activeBank.windows[i]).length }
  ({ s with frame := f }).request (windowRequests s.frame.windowInForce f.windowInForce)

/-- The next window of the frame, where there is one. -/
def FrameUnit.nextWindow (f : FrameUnit) : Option WindowIndex :=
  if f.windowIndex.val + 1 < f.activeBank.count.val then asFin 24 (f.windowIndex.val + 1) else none

/-- The window in force ends (R158). -/
def State.windowEnds (s : State) : State :=
  match s.frame.nextWindow with
  | some i => s.windowStart i
  | none =>
    match s.frame.syncMode with
    | .free => s.frameStart
    | .sync => { s with frame := { s.frame with state := .gap, gapTicks := 0 } }

/-- The Frame Unit takes a tick (R149, R158, R159). -/
def State.takeFrameTick (s : State) : State :=
  match s.frame.state with
  | .stopped => s
  | .armed => s
  | .framing =>
    let s1 := { s with frame := { s.frame with ticksRemaining := s.frame.ticksRemaining - 1 } }
    if s1.frame.ticksRemaining = 0 then s1.windowEnds else s1
  | .gap =>
    let s1 := { s with frame := { s.frame with gapTicks := s.frame.gapTicks + 1 } }
    if s1.frame.gapTicks = s1.frame.gapLimit then (s1.latch .syncLost).frameStart else s1

/-- A tick that the Frame Unit would end a window or a gap at. -/
def FrameUnit.tickEnds (f : FrameUnit) : Bool :=
  match f.state with
  | .stopped => false
  | .armed => false
  | .framing => f.ticksRemaining = 1
  | .gap => f.gapTicks + 1 = f.gapLimit

/-- WINDOW_END: the Frame Unit takes an outstanding tick outside GAP (log 4). -/
def execWindowEnd (s : State) : Host.Outcome State Fault Refusal :=
  .next <| s.awake fun s =>
    if s.frame.state = .gap then s else s.takeRequest (fun r => r = .tickFrame) 0 fun _ s => s.takeFrameTick

/-- GAP_LIMIT: the Frame Unit takes an outstanding tick in GAP (log 4). -/
def execGapLimit (s : State) : Host.Outcome State Fault Refusal :=
  .next <| s.awake fun s =>
    if s.frame.state = .gap then s.takeRequest (fun r => r = .tickFrame) 0 fun _ s => s.takeFrameTick else s

/-! ### The tick (R149, log 4) -/

/-- The request a part of a tick makes of its owner. -/
def tickRequest (counter : BitVec 32) : TickPart → Request
  | .frame => .tickFrame
  | .delay => .tickDelay counter
  | .charge p => .charge p

/-- What the owner of the part does beyond counting it: it ends a window or a gap, releases an entry, acts on a limit. -/
def State.tickActs (s : State) : TickPart → Bool
  | .frame => s.frame.tickEnds
  | .delay => !(s.dueEntries s.frame.tickCounter).isEmpty
  | .charge p => s.chargeActs p

def State.takeTickPart (part : TickPart) (s : State) : State :=
  match part with
  | .frame => s.takeFrameTick
  | .delay => s.takeDelayTick s.frame.tickCounter
  | .charge p => s.charge p

/-- A part that is held, or whose owner acts on it, is left to its own row; the others are taken with the tick. -/
def State.deliverTick (held : List TickPart) (part : TickPart) (s : State) : State :=
  if held.contains part || s.tickActs part then s.request [tickRequest s.frame.tickCounter part] else s.takeTickPart part

def tickParts : List TickPart := .frame :: .delay :: all8.map TickPart.charge

def State.advanceCounter (s : State) : State :=
  { s with frame := { s.frame with tickCounter := s.frame.tickCounter + 1 } }

/-- TICK (R149): none is produced while the tick period is 0. -/
def execTick (held : List TickPart) (s : State) : Host.Outcome State Fault Refusal :=
  .next <| s.awake fun s =>
    if s.frame.tickPeriod = 0 then s
    else tickParts.foldl (fun s part => s.deliverTick held part) s.advanceCounter

/-! ### FSYNC (R160) -/

/-- An FSYNC edge, by frame state and sync mode. -/
def State.takeFsync (s : State) : State :=
  if s.frame.syncMode = .sync then
    match s.frame.state with
    | .stopped => s
    | .armed => s.frameStart
    | .gap => s.frameStart
    | .framing =>
      (({ s with frame := { s.frame with earlySync := satInc s.frame.earlySync } }).latch .earlySync).frameStart
  else s

/-- FSYNC_EDGE: FSYNC stands at this level. While RESET# is low the level is only noted (R206). -/
def execFsyncEdge (level : Bool) (s : State) : Host.Outcome State Fault Refusal :=
  let s1 := { s with pins := { s.pins with fsync := level } }
  .next <| if s.pins.resetLow = false ∧ s.pins.fsync = false ∧ level = true then s1.takeFsync else s1

/-! ### START_SCHEDULE (R156) -/

/-- The active bank has a window, or the frame start at this decision exchanges the banks and gives one (R156 (d)). -/
def FrameUnit.planReady (f : FrameUnit) : Bool :=
  0 < f.activeBank.count.val || (f.syncMode = .free && f.countdown = 1 && 0 < f.standbyBank.count.val)

def FrameUnit.startRefusal (f : FrameUnit) : Option Status :=
  if f.state = .stopped ∧ f.tickPeriod ≠ 0 ∧ f.planReady = true then none else some .refusedState

def State.startSchedule (s : State) : State :=
  match s.frame.syncMode with
  | .free => s.frameStart
  | .sync => { s with frame := { s.frame with state := .armed } }

def State.startScheduleCommand (p : Pu) (s : State) : State :=
  let s1 := s.startSchedule
  s1.answer p [low s1.frame.state.code]

def execStartSchedule (p : Pu) (s : State) : Host.Outcome State Fault Refusal :=
  .next <| s.takeCommand p 29 fun c =>
    s.checked p c .supervisor (noArgs c) (fun _ => s.frame.startRefusal) fun _ => s.startScheduleCommand p

/-! ### STOP_SCHEDULE (R162, R163) -/

/-- The stack is emptied and the requests for the returned tasks follow. -/
def State.stopReturns (p : Pu) (returned : List TaskId) (s : State) : State :=
  let s1 := s.emptyStack p
  s1.request (s1.readyRequests returned)

/-- A pending push is withdrawn (R163 (c)). -/
def State.dropPush (p : Pu) (s : State) : State :=
  if (s.engine p).pendingDest = some .displaced then s.modSwitch p (Switch.setDest .readyHead) else s

/-- PU p takes the STOP request. The choice of claim returns none, since the frame state is STOPPED (R163). -/
def State.stopEngine (p : Pu) (s : State) : State :=
  match (s.engine p).st with
  | .running _ => (s.beginSwitch p .stop .readyHead).stopReturns p (s.engine p).stack
  | .switching _ => ((s.returnClaim p).dropPush p).stopReturns p (s.engine p).held
  | _ => s

/-- The Frame Unit's own part of STOP_SCHEDULE (R162). -/
def FrameUnit.stop (f : FrameUnit) : FrameUnit :=
  { f with state := .stopped, windowIndex := 0, ticksRemaining := 0, gapTicks := 0 }

def State.stopSchedule (s : State) : State :=
  ({ s with frame := s.frame.stop }).eachEngine (all8.filter fun p => (s.engine p).working) State.stopEngine

def State.stopScheduleCommand (p : Pu) (s : State) : State :=
  s.stopSchedule.answer p [low s.frame.state.code]

def execStopSchedule (p : Pu) (s : State) : Host.Outcome State Fault Refusal :=
  .next <| s.takeCommand p 30 fun c =>
    s.checked p c .supervisor (noArgs c)
      (fun _ => if s.frame.state = .stopped then some .refusedState else none) fun _ => s.stopScheduleCommand p

end Sys2Proof.Machine
end

