-- ==== Sys2Proof/Machine/Status.lean ====
section
/-!
DEFINITION. READ_STATUS, the condition commands, SYSTEM_RESET, the hard reset and its end (9.3 to 9.5, 9.8).
-/

namespace Sys2Proof.Machine

/-! ### READ_STATUS (R200) -/

/-- The result words of READ_STATUS (R205). -/
def State.statusWords (s : State) : List Word :=
  let f := s.frame
  [ packed [(0, Config.partCode), (16, Config.revision), (24, f.state.code), (32, f.active.code),
      (40, f.windowIndex.val), (48, f.countdown.toNat), (56, f.earlySync.toNat)],
    packed [(0, f.tickCounter.toNat), (32, f.ticksRemaining.toNat), (48, f.gapTicks.toNat)],
    packed [(0, s.conds.word.toNat), (32, s.conds.enable.toNat)],
    packedBytes (all8.map fun p => (s.engine p).st.code),
    packed [(0, s.violation.count.toNat), (8, optCode s.violation.lastPu), (16, optCode s.violation.lastTask),
      (32, f.frameCounter.toNat)],
    low s.violation.lastKind.toNat ]

def execReadStatus (p : Pu) (s : State) : Host.Outcome State Fault Refusal :=
  .next <| s.takeCommand p 36 fun c =>
    s.checked p c .puLevel (noArgs c) (fun _ => none) fun _ => s.answer p s.statusWords

/-! ### The condition commands (R198, R199) -/

/-- A set of flags, in the layout of the condition word (R202). -/
def flagSetArgs (c : Captured) : Option (BitVec 17) := some (flagsArg (c.arg 0))

def State.clearConditionsCommand (p : Pu) (m : BitVec 17) (s : State) : State :=
  let w := s.conds.word &&& ~~~m
  ({ s with conds := { s.conds with word := w } }).answer p [low w.toNat]

def execClearConditions (p : Pu) (s : State) : Host.Outcome State Fault Refusal :=
  .next <| s.takeCommand p 37 fun c =>
    s.checked p c .supervisor (flagSetArgs c) (fun _ => none) fun m => s.clearConditionsCommand p m

def State.setAttnEnableCommand (p : Pu) (m : BitVec 17) (s : State) : State :=
  ({ s with conds := { s.conds with enable := m } }).answer p [low s.conds.word.toNat, low m.toNat]

def execSetAttnEnable (p : Pu) (s : State) : Host.Outcome State Fault Refusal :=
  .next <| s.takeCommand p 38 fun c =>
    s.checked p c .supervisor (flagSetArgs c) (fun _ => none) fun m => s.setAttnEnableCommand p m

/-! ### SYSTEM_RESET (R201) -/

/-- R78: an engine that took part in dispatch is IDLE, the others OFFLINE; the counts are cleared. -/
def Engine.warm (e : Engine) : Engine := { st := if e.present then .idle else .offline }

/-- R104: what BIND, MASK and UNMASK set is kept. -/
def Channel.warm (r : Channel) : Channel :=
  { r with pendingCount := 0, saturated := false, arrivalCount := 0, waiters := [] }

/-- The last column of R147. -/
def FrameUnit.warm (f : FrameUnit) : FrameUnit :=
  { f with
    countdown := 0, state := .stopped, windowIndex := 0, ticksRemaining := 0, gapTicks := 0, frameCounter := 0
    earlySync := 0 }

/-- R201 (b) to (d): an outstanding command is answered ABORTED, overrun flags are cleared. R191 keeps the overrun flag of a
port that an event ends; the model follows R201 (d) (log 31). -/
def Port.warm (r : Port) : Port :=
  let r1 := match r.state with
    | .busy _ => r.answered .aborted .none false []
    | _ => r
  { r1 with overrun := false }

/-- The warm reset of every block: R12, R29, R31, R78, R104, R139, R147, R172, R195, R196. Requests not yet taken are dropped
(log 10). -/
def State.warmReset (s : State) : State :=
  { State.reset with
    engines := s.engines.map Engine.warm
    channels := s.channels.map Channel.warm
    frame := s.frame.warm
    ports := s.ports.map Port.warm
    conds := { s.conds with word := 0 }
    pins := s.pins
    pending := s.pending
    freeIndex := s.freeIndex }

/-- The issuing port is answered DONE (R201 (a)). -/
def execSystemReset (p : Pu) (s : State) : Host.Outcome State Fault Refusal :=
  .next <| s.takeCommand p 39 fun c =>
    s.checked p c .supervisor (noArgs c) (fun _ => none) fun _ => s.warmReset.answer p []

/-! ### The hard reset (R206) -/

/-- HARD_RESET: power-on, or RESET# low; the part holds its hard-reset state (log 11). -/
def execHardReset (s : State) : Host.Outcome State Fault Refusal :=
  .next { State.reset with
    pins := { s.pins with resetLow := true }, pending := s.pending, freeIndex := s.freeIndex }

/-- RESET_RISE: the present levels are taken as the former ones, so no edge follows (R206). -/
def execResetRise (events : BitVec 16) (fsync : Bool) (s : State) : Host.Outcome State Fault Refusal :=
  .next (if s.pins.resetLow then { s with pins := ⟨false, events, fsync⟩ } else s)

end Sys2Proof.Machine
end

