-- ==== Sys2Proof/Machine/Dispatch.lean ====
section
/-! DEFINITION. The meaning of every command: one arm per constructor of Instr. -/

namespace Sys2Proof.Machine

def exec (i : Instr) (s : State) : Host.Outcome State Fault Refusal :=
  match i with
  | .create p => Sys2Proof.Machine.execCreate p s
  | .start p => Sys2Proof.Machine.execStart p s
  | .suspend p => Sys2Proof.Machine.execSuspend p s
  | .resume p => Sys2Proof.Machine.execResume p s
  | .retire p => Sys2Proof.Machine.execRetire p s
  | .setPriority p => Sys2Proof.Machine.execSetPriority p s
  | .setAffinity p => Sys2Proof.Machine.execSetAffinity p s
  | .readTask p => Sys2Proof.Machine.execReadTask p s
  | .haltPartition p => Sys2Proof.Machine.execHaltPartition p s
  | .releasePartition p => Sys2Proof.Machine.execReleasePartition p s
  | .purgePartition p => Sys2Proof.Machine.execPurgePartition p s
  | .readPartition p => Sys2Proof.Machine.execReadPartition p s
  | .join p => Sys2Proof.Machine.execJoin p s
  | .leave p => Sys2Proof.Machine.execLeave p s
  | .handover p => Sys2Proof.Machine.execHandover p s
  | .readPu p => Sys2Proof.Machine.execReadPu p s
  | .resetPu p => Sys2Proof.Machine.execResetPu p s
  | .post p => Sys2Proof.Machine.execPost p s
  | .readChannel p => Sys2Proof.Machine.execReadChannel p s
  | .bind p => Sys2Proof.Machine.execBind p s
  | .mask p => Sys2Proof.Machine.execMask p s
  | .unmask p => Sys2Proof.Machine.execUnmask p s
  | .yield p => Sys2Proof.Machine.execYield p s
  | .wait p => Sys2Proof.Machine.execWait p s
  | .delay p => Sys2Proof.Machine.execDelay p s
  | .finish p => Sys2Proof.Machine.execFinish p s
  | .readSelf p => Sys2Proof.Machine.execReadSelf p s
  | .configure p => Sys2Proof.Machine.execConfigure p s
  | .startSchedule p => Sys2Proof.Machine.execStartSchedule p s
  | .stopSchedule p => Sys2Proof.Machine.execStopSchedule p s
  | .writeWindow p => Sys2Proof.Machine.execWriteWindow p s
  | .setPlanLength p => Sys2Proof.Machine.execSetPlanLength p s
  | .armPlanSwitch p => Sys2Proof.Machine.execArmPlanSwitch p s
  | .readPlan p => Sys2Proof.Machine.execReadPlan p s
  | .setBudget p => Sys2Proof.Machine.execSetBudget p s
  | .readStatus p => Sys2Proof.Machine.execReadStatus p s
  | .clearConditions p => Sys2Proof.Machine.execClearConditions p s
  | .setAttnEnable p => Sys2Proof.Machine.execSetAttnEnable p s
  | .systemReset p => Sys2Proof.Machine.execSystemReset p s
  | .undefinedCommandKind p => Sys2Proof.Machine.execUndefinedCommandKind p s
  | .goDiscarded p => Sys2Proof.Machine.execGoDiscarded p s
  | .goAccepted p => Sys2Proof.Machine.execGoAccepted p s
  | .windowFieldWrite p sel v => Sys2Proof.Machine.execWindowFieldWrite p sel v s
  | .hardReset => Sys2Proof.Machine.execHardReset s
  | .eventLineEdge n level => Sys2Proof.Machine.execEventLineEdge n level s
  | .fsyncEdge level => Sys2Proof.Machine.execFsyncEdge level s
  | .tick held => Sys2Proof.Machine.execTick held s
  | .handoverDeadlineExpiry p => Sys2Proof.Machine.execHandoverDeadlineExpiry p s
  | .delayListExpiry => Sys2Proof.Machine.execDelayListExpiry s
  | .windowEnd => Sys2Proof.Machine.execWindowEnd s
  | .gapLimit => Sys2Proof.Machine.execGapLimit s
  | .budgetLimitReached p => Sys2Proof.Machine.execBudgetLimitReached p s
  | .haltRequest k t => Sys2Proof.Machine.execHaltRequest k t s
  | .placeRequest t => Sys2Proof.Machine.execPlaceRequest t s
  | .urgentArrival p kind => Sys2Proof.Machine.execUrgentArrival p kind s
  | .windowReEvaluation p => Sys2Proof.Machine.execWindowReEvaluation p s
  | .budgetFrameStart => Sys2Proof.Machine.execBudgetFrameStart s
  | .resetRise events fsync => Sys2Proof.Machine.execResetRise events fsync s

end Sys2Proof.Machine
end

