-- ==== Sys2Proof/Machine/Step.lean ====
section
/-!
DEFINITION. A step of the part: it takes the command at the front of the queue. On an empty queue time passes (R68,
log 1).
-/

namespace Sys2Proof.Machine

def step (s : State) : Host.Outcome State Fault Refusal :=
  match s.pending with
  | [] => execIdle s
  | c :: rest => exec c { s with pending := rest }

/-- The command a word spells, at the front of the queue. No row of the table has bits, so no word spells one (log 24). -/
def State.withFetchWord (s : State) (nbits w : Nat) : State :=
  match decodeTableWord nbits w with
  | some c => { s with pending := c :: s.pending }
  | none => s

end Sys2Proof.Machine
end

