-- ==== Sys2Proof/Safety.lean ====
section
/-!
DEFINITION. The laws of the part that every step keeps: the partition counts (R30), the channel records (R103, R108), the
plan and the frame position (R147, R150, R155, R156).
-/

namespace Sys2Proof.Machine

/-! ### Partition counts (R30) -/

/-- Task t is of partition k and not FREE (R29, member count). -/
def State.isMember (s : State) (k : Partition) (t : TaskId) : Bool :=
  (s.task t).state ≠ .free && (s.task t).partition = k

/-- Task t is of partition k and READY (R29, ready count). -/
def State.isReadyIn (s : State) (k : Partition) (t : TaskId) : Bool :=
  (s.task t).state = .ready && (s.task t).partition = k

/-- The counts of every partition are those of its tasks (R29). -/
def State.CountsLaw (s : State) : Prop :=
  ∀ k, (s.part k).memberCount = allTasks.countP (s.isMember k) ∧ (s.part k).readyCount = allTasks.countP (s.isReadyIn k)

/-! ### Channel records (R103, R108) -/

/-- The edge of a SOFT channel is RISING, the post rights of a LINE channel are empty (R103); an unmasked PULSE channel holds
no unit (R108). -/
def Channel.Lawful (c : ChannelId) (r : Channel) : Prop :=
  (isLine c = false → r.edge = .rising) ∧ (isLine c = true → r.postRights = 0)
    ∧ (r.masked = false → r.mode = .pulse → r.pendingCount = 0)

def State.ChannelLaw (s : State) : Prop := ∀ c, (s.channel c).Lawful c

/-- What BIND, MASK and UNMASK set on a channel: mode, edge, masked flag, disposition and post rights (R104). -/
def Channel.config (r : Channel) : Channel :=
  { r with pendingCount := 0, saturated := false, arrivalCount := 0, waiters := [] }

/-! ### The plan and the frame position -/

/-- Every window has a length of at least one tick (R150). -/
def Bank.Lawful (x : Bank) : Prop := ∀ i : WindowIndex, (x.windows[i]).length ≠ 0

/-- The active bank has a window whenever the schedule runs, an armed standby bank has one (R150, R153); the window in force
is one of the frame (R150); outside FRAMING no tick of a window remains, outside GAP no gap tick is counted, and in STOPPED
and ARMED the window index is 0 (R147); ARMED and GAP are states of SYNC mode, and the tick runs whenever the schedule does
(R155, R156); the configured limits are not 0 (R147). -/
structure FrameUnit.Lawful (f : FrameUnit) : Prop where
  bankA : f.bankA.Lawful
  bankB : f.bankB.Lawful
  activeHasWindow : f.state ≠ .stopped → 0 < f.activeBank.count.val
  armedHasWindow : f.countdown ≠ 0 → 0 < f.standbyBank.count.val
  windowInFrame : f.dispatching = true → f.windowIndex.val < f.activeBank.count.val
  indexOutside : f.dispatching = false → f.windowIndex = 0
  ticksOutside : f.state ≠ .framing → f.ticksRemaining = 0
  ticksWithin : f.state = .framing → f.ticksRemaining ≠ 0
  gapOutside : f.state ≠ .gap → f.gapTicks = 0
  syncStates : f.state = .armed ∨ f.state = .gap → f.syncMode = .sync
  tickRuns : f.state ≠ .stopped → f.tickPeriod ≠ 0
  handoverLimit : f.handoverLimit ≠ 0
  gapLimit : f.gapLimit ≠ 0

def State.PlanLaw (s : State) : Prop := s.frame.Lawful

end Sys2Proof.Machine
end

