-- ==== Sys2Proof/Certificates/Slice0/Obligations.lean ====
section
/-!
DEFINITION. The statements for the provers. Where a statement gives the next state as an expression, that expression is
the whole next state: what it does not name is unchanged.
-/

namespace Sys2Proof.Machine

/-! ### Vocabulary -/

/-- Port p holds the captured command c of this kind, not yet taken, and RESET# is high (R188, R189, R206). -/
structure Captures (s : State) (p : Pu) (kind : BitVec 8) (c : Captured) : Prop where
  awake : s.pins.resetLow = false
  captured : s.capturedAt p = some c
  kind : c.kind = kind

/-- No command of this kind can be taken on port p. -/
def CapturesNone (s : State) (p : Pu) (kind : BitVec 8) : Prop :=
  s.pins.resetLow = true ∨ s.capturedAt p = none ∨ ∃ c, s.capturedAt p = some c ∧ c.kind ≠ kind

/-- The port, kind code and privilege class of each command that has a class check (R193, R202, command summary). -/
def classRow : Instr → Option (Pu × BitVec 8 × PrivClass)
  | .create p => some (p, 1, .manager)
  | .start p => some (p, 2, .manager)
  | .suspend p => some (p, 3, .manager)
  | .resume p => some (p, 4, .manager)
  | .retire p => some (p, 5, .manager)
  | .setPriority p => some (p, 6, .manager)
  | .setAffinity p => some (p, 7, .manager)
  | .readTask p => some (p, 8, .user)
  | .haltPartition p => some (p, 9, .supervisor)
  | .releasePartition p => some (p, 10, .supervisor)
  | .purgePartition p => some (p, 11, .supervisor)
  | .readPartition p => some (p, 12, .user)
  | .join p => some (p, 13, .puLevel)
  | .leave p => some (p, 14, .puLevel)
  | .handover p => some (p, 15, .puLevel)
  | .readPu p => some (p, 16, .puLevel)
  | .resetPu p => some (p, 17, .supervisor)
  | .post p => some (p, 18, .user)
  | .readChannel p => some (p, 19, .user)
  | .bind p => some (p, 20, .supervisor)
  | .mask p => some (p, 21, .supervisor)
  | .unmask p => some (p, 22, .supervisor)
  | .configure p => some (p, 28, .supervisor)
  | .startSchedule p => some (p, 29, .supervisor)
  | .stopSchedule p => some (p, 30, .supervisor)
  | .writeWindow p => some (p, 31, .supervisor)
  | .setPlanLength p => some (p, 32, .supervisor)
  | .armPlanSwitch p => some (p, 33, .supervisor)
  | .readPlan p => some (p, 34, .supervisor)
  | .setBudget p => some (p, 35, .manager)
  | .readStatus p => some (p, 36, .puLevel)
  | .clearConditions p => some (p, 37, .supervisor)
  | .setAttnEnable p => some (p, 38, .supervisor)
  | .systemReset p => some (p, 39, .supervisor)
  | _ => none

/-- The port and kind code of each self command (R125, R202). -/
def selfRow : Instr → Option (Pu × BitVec 8)
  | .yield p => some (p, 23)
  | .wait p => some (p, 24)
  | .delay p => some (p, 25)
  | .finish p => some (p, 26)
  | .readSelf p => some (p, 27)
  | _ => none

/-- The PUs of the affinity CREATE carries in ARG1 (R202). -/
def affinityPus (c : Captured) : List Pu := all8.filter fun q => (c.arg 1).getLsbD q.val

/-- An argument of the captured command is out of the range its command's rule gives. CREATE (R14 (b), R15 (a)): an id of 128
to 254, a partition or a priority above 7, a privilege of 3, an empty affinity, a HANDLER with other than one PU. -/
def outOfRange (c : Captured) : Instr → Bool
  | .create _ =>
    (127 < bits (c.arg 0) 0 8 && bits (c.arg 0) 0 8 ≠ 255) || 7 < bits (c.arg 0) 8 8 || 7 < bits (c.arg 0) 16 8
      || 2 < bits (c.arg 0) 25 2 || affinityPus c = [] || (bits (c.arg 0) 24 1 = 1 && (affinityPus c).length ≠ 1)
  | .start _ => 127 < (c.arg 0).toNat
  | .suspend _ => 127 < (c.arg 0).toNat
  | .resume _ => 127 < (c.arg 0).toNat
  | .retire _ => 127 < (c.arg 0).toNat
  | .setPriority _ => 127 < (c.arg 0).toNat || 7 < (c.arg 1).toNat
  | .setAffinity _ => 127 < (c.arg 0).toNat || setArg (c.arg 1) = 0
  | .readTask _ => 127 < (c.arg 0).toNat
  | .haltPartition _ => 7 < (c.arg 0).toNat
  | .releasePartition _ => 7 < (c.arg 0).toNat
  | .purgePartition _ => 7 < (c.arg 0).toNat
  | .readPartition _ => 7 < (c.arg 0).toNat
  | .readPu _ => 7 < (c.arg 0).toNat
  | .resetPu _ => 7 < (c.arg 0).toNat
  | .post _ => 47 < (c.arg 0).toNat || (c.arg 0).toNat < 16 || (c.arg 1).toNat = 0 || 255 < (c.arg 1).toNat
  | .readChannel _ => 47 < (c.arg 0).toNat
  | .bind _ => 47 < (c.arg 0).toNat || 1 < (c.arg 1).toNat || 2 < (c.arg 2).toNat || 1 < (c.arg 4).toNat
  | .mask _ => 47 < (c.arg 0).toNat
  | .unmask _ => 47 < (c.arg 0).toNat
  | .wait _ => 47 < (c.arg 1).toNat || 16777215 < (c.arg 2).toNat
  | .delay _ => (c.arg 1).toNat = 0 || 16777215 < (c.arg 1).toNat
  | .configure _ =>
    (c.arg 0).toNat = 0 || 1000 < (c.arg 0).toNat || (c.arg 1).toNat = 0 || 255 < (c.arg 1).toNat
      || 1 < (c.arg 2).toNat || (c.arg 3).toNat = 0 || 65535 < (c.arg 3).toNat
  | .writeWindow _ =>
    23 < (c.arg 0).toNat || (c.arg 1).toNat = 0 || 65535 < (c.arg 1).toNat
      || all8.any fun q => 9 < bits (c.arg 2) (8 * q.val) 8
  | .setPlanLength _ => 24 < (c.arg 0).toNat
  | .armPlanSwitch _ => 255 < (c.arg 0).toNat
  | .readPlan _ => 1 < (c.arg 0).toNat || 23 < (c.arg 1).toNat
  | .setBudget _ =>
    127 < (c.arg 0).toNat || 65535 < (c.arg 1).toNat || 65535 < (c.arg 2).toNat || 3 < (c.arg 3).toNat
      || (0 < (c.arg 1).toNat && (c.arg 1).toNat < (c.arg 2).toNat)
  | _ => false

/-- Port p holds this command, and it passes its class check (R193). -/
structure Issued (s : State) (p : Pu) (kind : BitVec 8) (cls : PrivClass) (c : Captured) : Prop
    extends Captures s p kind c where
  allowed : s.classPasses p cls = true

/-- ARG0 names task t, and t stands in the issuer's scope (R14 (b), (c)). -/
structure OnTask (s : State) (p : Pu) (c : Captured) (t : TaskId) : Prop where
  named : (c.arg 0).toNat = t.val
  scope : s.taskInScope p t = true

/-- The commands that name a task in ARG0 and are held to the issuer's scope (R14 (c), R182 (c)). -/
def onTaskCommand : Instr → Bool
  | .start _ | .suspend _ | .resume _ | .retire _ | .setPriority _ | .setAffinity _ | .readTask _ | .setBudget _ => true
  | _ => false

/-- Task t is the running task of PU q alone (R53). -/
structure RunsOn (s : State) (t : TaskId) (q : Pu) : Prop where
  here : (s.engine q).runningTask = some t
  only : ∀ r, (s.engine r).runningTask = some t → r = q

/-- Task t is the claimed task of PU q alone (R53). -/
structure ClaimedOn (s : State) (t : TaskId) (q : Pu) : Prop where
  here : (s.engine q).claimedTask = some t
  only : ∀ r, (s.engine r).claimedTask = some t → r = q

/-- Task t stands on the displacement stack of PU q alone (R91). -/
structure StackedOn (s : State) (t : TaskId) (q : Pu) : Prop where
  here : t ∈ (s.engine q).stack
  only : ∀ r, t ∈ (s.engine r).stack → r = q

/-- The next state in which port p is answered with this status, and nothing else is done (R189). -/
def State.onlyAnswered (s : State) (p : Pu) (st : Status) : State := s.respond p st .none false []

/-- The next state of a protection violation: recorded, PROTECT latched, answered REFUSED_PROTECT (R195). -/
def State.protectRefused (s : State) (p : Pu) (kind : BitVec 8) : State :=
  ({ s with
      violation := ⟨satInc s.violation.count, some p, kind, s.issuerTask p⟩
      conds := { s.conds with word := s.conds.word ||| Cond.protect.mask } }).respond p .refusedProtect .none false []

/-- Of the outstanding requests of this form that are next in their group, the `nth` is `r`, and `rest` remains once it is
taken (log 3). -/
def NextRequest (s : State) (want : Request → Bool) (nth : Nat) (r : Request) (rest : List (List Request)) : Prop :=
  s.pins.resetLow = false ∧ nthRequest want nth s.requests = some (r, rest)

/-- The rows that may change the Frame Unit. -/
def framing : Instr → Bool
  | .configure _ | .startSchedule _ | .stopSchedule _ | .writeWindow _ | .setPlanLength _ | .armPlanSwitch _
  | .systemReset _ | .hardReset | .fsyncEdge _ | .tick _ | .windowEnd | .gapLimit => true
  | _ => false

/-- The rows that may change what is set up on a channel (R104). -/
def channelSetup : Instr → Bool
  | .bind _ | .mask _ | .unmask _ | .hardReset => true
  | _ => false

/-- The rows that may change a halt. -/
def halting : Instr → Bool
  | .haltPartition _ | .releasePartition _ | .haltRequest _ _ | .systemReset _ | .hardReset => true
  | _ => false

/-- The rows that may change RESET# or the former level of a line (R206). -/
def onPins : Instr → Bool
  | .hardReset | .resetRise _ _ | .eventLineEdge _ _ | .fsyncEdge _ => true
  | _ => false

end Sys2Proof.Machine

open Sys2Proof Sys2Proof.Machine

/-! ### The queue, the reset, the responses -/

/-- A step with c at the front of the queue is the meaning of c on the state with the queue's rest. On an empty queue time
passes (R68, log 1): one unit of 4 µs, where no running deadline timer has run out; otherwise the expiry of the
lowest-numbered PU whose timer has. When n units pass, every running timer falls by n and nothing else changes. -/
def Obligations.StepTakesTheFrontCommand : Prop :=
  (∀ (c : Instr) (rest : List Instr) (s : State),
    step { s with pending := c :: rest } = exec c { s with pending := rest }) ∧
  ∀ s : State,
    let ranOut (q : Pu) : Prop := ∃ sw, (s.engine q).st = .switching sw ∧ sw.remaining = 0
    (s.pending = [] → (∀ q, ¬ ranOut q) → step s = .next (s.elapse 1)) ∧
    (∀ q, s.pending = [] → ranOut q → (∀ r, ranOut r → q ≤ r) → step s = exec (.handoverDeadlineExpiry q) s) ∧
    ∀ n : BitVec 8, { s.elapse n with engines := s.engines } = s ∧ ∀ q,
      (∀ sw, (s.engine q).st = .switching sw → (s.elapse n).engine q =
        { s.engine q with st := .switching { sw with remaining := sw.remaining - n } }) ∧
      ((∀ sw, (s.engine q).st ≠ .switching sw) → (s.elapse n).engine q = s.engine q)

/-- What a hard reset leaves: R12 with R1, R29, R31, R52, R104, R139, R147 and R150, R187, R195, R196. The count of
SWREQ's rises, 0 there, is the model's own (log 19). -/
def Obligations.ResetHoldsTheSpecsValues : Prop :=
  let s := State.reset
  (∀ t, s.task t = TaskRecord.freeRecord) ∧
  (∀ k, s.part k = ⟨none, none, 0, 0⟩) ∧
  (∀ k q, s.readyQueue k q = []) ∧ (∀ p, s.urgentQueue p = []) ∧
  (∀ p, s.engine p = ⟨.offline, [], 0, 0, 0⟩) ∧
  (∀ c, s.channel c = ⟨.signal, .rising, true, .drop, 0, false, 0, 0, []⟩) ∧
  s.delayList = [] ∧
  (s.frame.tickPeriod = 0 ∧ s.frame.tickCounter = 0 ∧ s.frame.handoverLimit = 25 ∧ s.frame.syncMode = .free ∧
    s.frame.gapLimit = 1000 ∧ s.frame.active = .a ∧ s.frame.countdown = 0 ∧ s.frame.state = .stopped ∧
    s.frame.windowIndex = 0 ∧ s.frame.ticksRemaining = 0 ∧ s.frame.gapTicks = 0 ∧ s.frame.frameCounter = 0 ∧
    s.frame.earlySync = 0) ∧
  (∀ id : BankId, (s.frame.bank id).count = 0 ∧
    ∀ i : WindowIndex, (s.frame.bank id).windows[i] = ⟨1, Vector.replicate 8 .idle⟩) ∧
  (∀ p, s.port p = ⟨0, Vector.replicate 6 0, .idle, none, .none, false, Vector.replicate 6 0, false⟩) ∧
  s.violation = ⟨0, none, 0, none⟩ ∧ s.conds = ⟨0, 0⟩

/-- Every command ends in a next state: the part has no fault (R190 answers every misuse). No command touches the queue of
commands (log 1). -/
def Obligations.EveryCommandEndsInANextState : Prop :=
  ∀ (c : Instr) (s : State), ∃ t, exec c s = .next t ∧ t.pending = s.pending

/-- The class check and the scope of an issuer (R14 (c), R192, R193): in STOPPED every port passes every class and every
scope is open; otherwise the privilege of the running task decides, a SUPERVISOR reaches every partition and any other issuer
that of its running task; without a running task no class above PU-level passes. A FREE record is in every scope. -/
def Obligations.PrivilegeFollowsTheRunningTask : Prop :=
  ∀ (s : State) (p : Pu) (k : Partition),
    s.classPasses p .puLevel = true ∧
    (s.frame.state = .stopped → (∀ cls, s.classPasses p cls = true) ∧ s.inScope p k = true) ∧
    (s.frame.state ≠ .stopped → (s.engine p).runningTask = none →
      (∀ cls, cls ≠ .puLevel → s.classPasses p cls = false) ∧ s.inScope p k = false) ∧
    (∀ t, s.frame.state ≠ .stopped → (s.engine p).runningTask = some t →
      s.classPasses p .user = true ∧
      (s.classPasses p .manager = true ↔ (s.task t).privilege = .manager ∨ (s.task t).privilege = .supervisor) ∧
      (s.classPasses p .supervisor = true ↔ (s.task t).privilege = .supervisor) ∧
      (s.inScope p k = true ↔ (s.task t).privilege = .supervisor ∨ (s.task t).partition = k)) ∧
    ∀ t, s.taskInScope p t = true ↔ (s.task t).state = .free ∨ s.inScope p (s.task t).partition = true

/-- An argument out of range is answered REFUSED_RANGE and nothing else changes (R14 (b), R189 (c)); for a self command this
comes after the check for a running task (R125). So is a captured kind of 0 or of 40 to 255, with no violation (R189 (a),
R202). A range is judged on the whole argument word (log 15); which word holds an argument of BIND, CONFIGURE, WRITE_WINDOW
and SET_BUDGET is log 16. -/
def Obligations.RangeFailureChangesNothingElse : Prop :=
  ∀ (p : Pu) (c : Captured) (s : State),
    (∀ i k, Captures s p k c → outOfRange c i = true →
      (∃ cls, classRow i = some (p, k, cls) ∧ s.classPasses p cls = true) ∨
        (selfRow i = some (p, k) ∧ (s.engine p).runningTask ≠ none) →
      exec i s = .next (s.onlyAnswered p .refusedRange)) ∧
    (∀ k, Captures s p k c → k = 0 ∨ 40 ≤ k.toNat →
      exec (.undefinedCommandKind p) s = .next (s.onlyAnswered p .refusedRange))

/-- A write to GO: on an IDLE or DONE port the window fields are captured, the response words are 0, the overrun flag is
clear and the port is BUSY; on a BUSY port the overrun flag is set, PORT_OVERRUN is latched and all else is kept (R188). Both
rows of the table are this write (log 13). A write of a window field changes that field alone, in any port state; KIND keeps
its low eight bits (R187, R188, R202, log 14). A response makes its port DONE with the status, the outcome and the result
words, 0 in those not given; it keeps the window fields and the overrun flag (R189, R191), every other port and all else. A
bus read of a word gives the window fields, the STATUS, OUTCOME and PORT codes and the result words at the offsets of R202
(eight bytes to a word select), and 0 at GO and at every word R202 does not name (log 26). -/
def Obligations.PortsTakeWritesAndResponses : Prop :=
  ∀ (p : Pu) (s : State),
    (∀ i, i = .goAccepted p ∨ i = .goDiscarded p → s.pins.resetLow = false →
      ((∀ c, (s.port p).state ≠ .busy c) →
        exec i s = .next (s.setPort p
          ⟨(s.port p).kind, (s.port p).args, .busy ⟨(s.port p).kind, (s.port p).args⟩, none, .none, false,
            Vector.replicate 6 0, false⟩)) ∧
      (∀ c, (s.port p).state = .busy c →
        exec i s = .next
          { s.setPort p { s.port p with overrun := true } with
            conds := { s.conds with word := s.conds.word ||| Cond.portOverrun.mask } })) ∧
    (∀ v : Word, s.pins.resetLow = false →
      exec (.windowFieldWrite p 0 v) s = .next (s.setPort p { s.port p with kind := v.setWidth 8 }) ∧
      ∀ i : Fin 6, exec (.windowFieldWrite p (BitVec.ofNat 5 (i.val + 1)) v) s =
        .next (s.setPort p { s.port p with args := put (s.port p).args i v })) ∧
    (∀ (st : Status) (oc : OutcomeCode) (sup : Bool) (res : List Word),
      let t := s.respond p st oc sup res
      { t with ports := s.ports } = s ∧ (∀ q, q ≠ p → t.port q = s.port q) ∧
      (t.port p).state = .done ∧ (t.port p).status = some st ∧ (t.port p).outcome = oc ∧ (t.port p).superseded = sup ∧
      (t.port p).kind = (s.port p).kind ∧ (t.port p).args = (s.port p).args ∧ (t.port p).overrun = (s.port p).overrun ∧
      ∀ i : Fin 6, (t.port p).res[i] = res.getD i.val 0) ∧
    (let r := s.port p;
      s.readWindow p 0 = r.kind.setWidth 64 ∧
      (∀ i : Fin 6, s.readWindow p (BitVec.ofNat 5 (i.val + 1)) = r.args[i]) ∧
      s.readWindow p 8 = BitVec.ofNat 64 (match r.status with
        | none => 0
        | some .done => 1
        | some .refusedState => 2
        | some .refusedRange => 3
        | some .refusedProtect => 4
        | some .noResource => 5
        | some .stale => 6
        | some .notRunning => 7
        | some .puFaulted => 8
        | some .aborted => 9) ∧
      s.readWindow p 9 = BitVec.ofNat 64 ((match r.outcome with
        | .none => 0
        | .deferred => 1
        | .continue => 2
        | .switched => 3
        | .idle => 4) + if r.superseded then 256 else 0) ∧
      (∀ i : Fin 6, s.readWindow p (BitVec.ofNat 5 (i.val + 10)) = r.res[i]) ∧
      s.readWindow p 16 = BitVec.ofNat 64 ((match r.state with
        | .idle => 0
        | .busy _ => 1
        | .done => 2) + if r.overrun then 256 else 0) ∧
      ∀ sel : BitVec 5, sel = 7 ∨ 16 < sel.toNat → s.readWindow p sel = 0)

/-! ### Privilege, scope and state checks -/

/-- A protection violation: a class check or a scope check that fails is answered REFUSED_PROTECT, counted and recorded with
its PU, kind and running task, and latches PROTECT; nothing else changes (R189 (b), R193, R195). The scope checks are the
own-partition rule, the limits on a MANAGER's CREATE, the post rights, READ_PARTITION, and RESET_PU of the issuer's own PU
(R75 (c)). -/
def Obligations.ProtectionViolationsAreRefusedAndRecorded : Prop :=
  ∀ (p : Pu) (c : Captured) (s : State),
    (∀ i k cls, classRow i = some (p, k, cls) → Captures s p k c → s.classPasses p cls = false →
      exec i s = .next (s.protectRefused p k)) ∧
    (∀ i k cls t, onTaskCommand i = true → classRow i = some (p, k, cls) → Issued s p k cls c → outOfRange c i = false →
      (c.arg 0).toNat = t.val → s.taskInScope p t = false → exec i s = .next (s.protectRefused p k)) ∧
    (∀ a, Issued s p 1 .manager c → createArgs c = some a → s.effectivePrivilege p ≠ some .supervisor →
      a.cls = .handler ∨ a.privilege ≠ .user ∨ s.inScope p a.partition = false →
      exec (.create p) s = .next (s.protectRefused p 1)) ∧
    (∀ ch, Issued s p 18 .user c → outOfRange c (.post p) = false → (c.arg 0).toNat = ch.val →
      s.effectivePrivilege p ≠ some .supervisor →
      (∀ t, (s.engine p).runningTask = some t → (s.channel ch).postRights.getLsbD (s.task t).partition.val = false) →
      exec (.post p) s = .next (s.protectRefused p 18)) ∧
    (∀ k : Partition, Issued s p 12 .user c → (c.arg 0).toNat = k.val → s.inScope p k = false →
      exec (.readPartition p) s = .next (s.protectRefused p 12)) ∧
    (Issued s p 17 .supervisor c → (c.arg 0).toNat = p.val → exec (.resetPu p) s = .next (s.protectRefused p 17))

/-- A state check that fails gives its answer and nothing else changes: the lifecycle commands and SET_BUDGET (R17 to R24,
R182), RELEASE and PURGE (R43, R44), CREATE (R15), JOIN, LEAVE and HANDOVER (R60, R72, R73), the frame commands (R148, R151
to R153, R156, R162). A self command that finds no running task is answered NOT_RUNNING, in every frame state (R125 (a)). -/
def Obligations.StateFailureChangesNothingElse : Prop :=
  ∀ (p : Pu) (c : Captured) (s : State),
    let refused (i : Instr) (st : Status) := exec i s = .next (s.onlyAnswered p st)
    (∀ t, OnTask s p c t →
      (Issued s p 2 .manager c → (s.task t).state ≠ .dormant ∨ (s.part (s.task t).partition).purge ≠ none →
        refused (.start p) .refusedState) ∧
      (Issued s p 3 .manager c →
        (s.task t).state = .free ∨ (s.task t).state = .dormant ∨ (s.task t).state = .suspended →
        refused (.suspend p) .refusedState) ∧
      (Issued s p 4 .manager c → (s.task t).state ≠ .suspended ∨ (s.part (s.task t).partition).purge ≠ none →
        refused (.resume p) .refusedState) ∧
      (Issued s p 5 .manager c → (s.task t).state = .free → refused (.retire p) .refusedState) ∧
      (Issued s p 6 .manager c → (c.arg 1).toNat ≤ 7 → (s.task t).state = .free → refused (.setPriority p) .refusedState) ∧
      (Issued s p 7 .manager c → setArg (c.arg 1) ≠ 0 → (s.task t).state = .free ∨ (s.task t).cls = .handler →
        refused (.setAffinity p) .refusedState) ∧
      (Issued s p 35 .manager c → outOfRange c (.setBudget p) = false → (s.task t).state = .free →
        refused (.setBudget p) .refusedState)) ∧
    (∀ k : Partition, (c.arg 0).toNat = k.val →
      (Issued s p 10 .supervisor c → (s.part k).halted = none → refused (.releasePartition p) .refusedState) ∧
      (Issued s p 11 .supervisor c → (s.part k).purge ≠ none → refused (.purgePartition p) .refusedState)) ∧
    (∀ a, Issued s p 1 .manager c → createArgs c = some a → s.createAllowed p a = true → s.createInScope p a = true →
      ((s.part a.partition).purge ≠ none ∨ (∃ t, a.id = some t ∧ (s.task t).state ≠ .free) →
        refused (.create p) .refusedState) ∧
      ((s.part a.partition).purge = none → a.id = none → (∀ t, (s.task t).state ≠ .free) →
        refused (.create p) .noResource)) ∧
    (Issued s p 13 .puLevel c →
      ((s.engine p).st = .faulted → refused (.join p) .puFaulted) ∧
      ((s.engine p).st ≠ .faulted → (s.engine p).st ≠ .offline → refused (.join p) .refusedState)) ∧
    (Issued s p 14 .puLevel c → (s.engine p).st ≠ .idle → refused (.leave p) .refusedState) ∧
    (Issued s p 15 .puLevel c →
      ((s.engine p).st = .idle ∨ (∃ t, (s.engine p).st = .running t) → refused (.handover p) .stale) ∧
      ((s.engine p).st = .offline → refused (.handover p) .refusedState) ∧
      ((s.engine p).st = .faulted → refused (.handover p) .puFaulted)) ∧
    (Issued s p 28 .supervisor c → outOfRange c (.configure p) = false → s.frame.state ≠ .stopped →
      refused (.configure p) .refusedState) ∧
    (Issued s p 29 .supervisor c →
      s.frame.state ≠ .stopped ∨ s.frame.tickPeriod = 0 ∨
        (s.frame.activeBank.count = 0 ∧
          ¬(s.frame.syncMode = .free ∧ s.frame.countdown = 1 ∧ s.frame.standbyBank.count ≠ 0)) →
      refused (.startSchedule p) .refusedState) ∧
    (Issued s p 30 .supervisor c → s.frame.state = .stopped → refused (.stopSchedule p) .refusedState) ∧
    (Issued s p 31 .supervisor c → outOfRange c (.writeWindow p) = false → s.frame.countdown ≠ 0 →
      refused (.writeWindow p) .refusedState) ∧
    (Issued s p 32 .supervisor c → outOfRange c (.setPlanLength p) = false → s.frame.countdown ≠ 0 →
      refused (.setPlanLength p) .refusedState) ∧
    (Issued s p 33 .supervisor c → (c.arg 0).toNat ≠ 0 → (c.arg 0).toNat ≤ 255 → s.frame.standbyBank.count = 0 →
      refused (.armPlanSwitch p) .refusedState) ∧
    (∀ i k, selfRow i = some (p, k) → Captures s p k c → (s.engine p).runningTask = none → refused i .notRunning)

/-- A port whose PU has no running task, outside STOPPED (R194): PU-level commands pass; a self command is NOT_RUNNING; every
other class is REFUSED_PROTECT, recorded with no task. On a FAULTED PU's port JOIN and HANDOVER are PU_FAULTED, LEAVE is
REFUSED_STATE, READ_STATUS and READ_PU are taken. -/
def Obligations.PortWithoutRunningTaskIsJudgedByClass : Prop :=
  ∀ (p : Pu) (c : Captured) (s : State), s.frame.state ≠ .stopped → (s.engine p).runningTask = none →
    s.classPasses p .puLevel = true ∧
    (∀ i k, selfRow i = some (p, k) → Captures s p k c → exec i s = .next (s.onlyAnswered p .notRunning)) ∧
    (∀ i k cls, classRow i = some (p, k, cls) → cls ≠ .puLevel → Captures s p k c →
      ∃ t, exec i s = .next t ∧ t = s.protectRefused p k ∧ t.violation.lastTask = none) ∧
    ((s.engine p).st = .faulted →
      (Captures s p 13 c → exec (.join p) s = .next (s.onlyAnswered p .puFaulted)) ∧
      (Captures s p 15 c → exec (.handover p) s = .next (s.onlyAnswered p .puFaulted)) ∧
      (Captures s p 14 c → exec (.leave p) s = .next (s.onlyAnswered p .refusedState)) ∧
      (Captures s p 36 c → exec (.readStatus p) s = .next (s.answer p s.statusWords)) ∧
      (∀ q : Pu, Captures s p 16 c → (c.arg 0).toNat = q.val →
        ∃ t, exec (.readPu p) s = .next t ∧ (t.port p).status = some .done))

/-! ### Tasks -/

/-- Where a task enters its queue (R31, R32, R84): a NORMAL task at the head or the tail of the ready queue of its partition
and priority; a handler first or last of its priority group in its home PU's urgent queue. It leaves from whatever position
it holds, and the others keep their order (R33, R85). -/
def Obligations.QueueMovesAreAtTheStatedPlace : Prop :=
  ∀ (s : State) (t : TaskId),
    let r := s.task t
    let others (s' : State) : Prop :=
      (r.cls = .normal → s'.urgent = s.urgent ∧
        ∀ k q, (k, q) ≠ (r.partition, r.priority) → s'.readyQueue k q = s.readyQueue k q) ∧
      (r.cls = .handler → s'.ready = s.ready ∧ ∀ p, p ≠ r.homePu → s'.urgentQueue p = s.urgentQueue p) ∧
      { s' with ready := s.ready, urgent := s.urgent } = s
    (∀ e, others (s.enterQueue t e) ∧
      (r.cls = .normal → (s.enterQueue t e).readyQueue r.partition r.priority =
        match e with
        | .head => t :: s.readyQueue r.partition r.priority
        | .tail => s.readyQueue r.partition r.priority ++ [t]) ∧
      (r.cls = .handler → ∃ before after, s.urgentQueue r.homePu = before ++ after ∧
        (s.enterQueue t e).urgentQueue r.homePu = before ++ t :: after ∧
        (∀ y ∈ before, match e with
          | .head => (s.task y).priority < r.priority
          | .tail => (s.task y).priority ≤ r.priority) ∧
        ∀ y, after.head? = some y → match e with
          | .head => r.priority ≤ (s.task y).priority
          | .tail => r.priority < (s.task y).priority)) ∧
    others (s.leaveQueue t) ∧
    (r.cls = .normal → (s.leaveQueue t).readyQueue r.partition r.priority =
      (s.readyQueue r.partition r.priority).filter fun u => u ≠ t) ∧
    (r.cls = .handler → (s.leaveQueue t).urgentQueue r.homePu = (s.urgentQueue r.homePu).filter fun u => u ≠ t)

/-- CREATE fills the named FREE record, or under "any" the lowest-numbered FREE one, and answers its id and DORMANT (R15,
R16). -/
def Obligations.CreateFillsARecord : Prop :=
  ∀ (p : Pu) (c : Captured) (s : State) (t : TaskId) (k : Partition) (q : Priority) (cls : TaskClass) (priv : Privilege),
    let affinity := setArg (c.arg 1)
    Issued s p 1 .manager c →
    bits (c.arg 0) 8 8 = k.val → bits (c.arg 0) 16 8 = q.val → bits (c.arg 0) 24 1 = cls.code →
    bits (c.arg 0) 25 2 = priv.code → affinity ≠ 0 →
    (cls = .handler → (all8.filter fun h => affinity.getLsbD h.val).length = 1) →
    s.effectivePrivilege p = some .supervisor ∨ (cls = .normal ∧ priv = .user ∧ s.inScope p k = true) →
    (s.part k).purge = none → (s.task t).state = .free →
    bits (c.arg 0) 0 8 = t.val ∨ (bits (c.arg 0) 0 8 = 255 ∧ ∀ u, u < t → (s.task u).state ≠ .free) →
    exec (.create p) s = .next ((s.setTask t
      { state := .dormant, partition := k, priority := q, cls := cls, privilege := priv, affinity := affinity
        entryWord := c.arg 2, resumeWord := c.arg 2, waitChannel := none, wakeTick := none, waitResult := none
        stopReason := none, budgetLimit := 0, budgetWarn := 0, budgetAction := .note, budgetUsed := 0
        warnFlag := false, overrunCount := 0, dispatchCount := 0, lastPu := none, limitMark := false }).answer p
      [low t.val, low 1])

/-- START of a DORMANT task and RESUME of a SUSPENDED one make it READY at the tail of its queue, START at its entry word; a
place request, or for a handler an urgent arrival at its home PU, follows (R17, R20). -/
def Obligations.StartAndResumeQueueTheTask : Prop :=
  ∀ (p : Pu) (c : Captured) (s : State) (t : TaskId), OnTask s p c t → (s.part (s.task t).partition).purge = none →
    let follows (r : TaskRecord) : Request := match r.cls with
      | .normal => .place t
      | .handler => .urgent r.homePu .arrival
    let queued (r : TaskRecord) : Host.Outcome State Fault Refusal :=
      .next ((((s.setTask t r).enterQueue t .tail).request [follows r]).answer p [low t.val, low 2])
    (Issued s p 2 .manager c → (s.task t).state = .dormant →
      exec (.start p) s =
        queued { s.task t with state := .ready, stopReason := none, resumeWord := (s.task t).entryWord }) ∧
    (Issued s p 4 .manager c → (s.task t).state = .suspended →
      exec (.resume p) s = queued { s.task t with state := .ready, stopReason := none })

/-- SUSPEND of a task that is not RUNNING: it leaves its place and is SUSPENDED with stop reason COMMAND; a PU that loses
its claim makes a new choice, one that loses a stack entry re-evaluates its urgent queue (R18, R19 (a), R92 (b)). The PU of a
RUNNING task is asked to switch it out with destination SUSPENDED (COMMAND), and the outcome is DEFERRED (R19 (b) to (d)).
That the re-evaluation is part of the decision is log 8. -/
def Obligations.SuspendTakesTheTaskOut : Prop :=
  ∀ (p : Pu) (c : Captured) (s : State) (t : TaskId), Issued s p 3 .manager c → OnTask s p c t →
    let stopped (r : TaskRecord) : TaskRecord := { r with state := .suspended, stopReason := some .command }
    let done (s' : State) : Host.Outcome State Fault Refusal :=
      .next (s'.answer p [low t.val, low (s'.task t).state.code])
    ((s.task t).state = .ready → exec (.suspend p) s = done ((s.leaveQueue t).modTask t stopped)) ∧
    ((s.task t).state = .held → exec (.suspend p) s = done (s.modTask t stopped)) ∧
    ((s.task t).state = .waiting → exec (.suspend p) s =
      done (((s.leaveWaiters t).leaveDelayList t).modTask t fun r =>
        { stopped r with waitResult := some .interrupted })) ∧
    (∀ q, (s.task t).state = .displaced → StackedOn s t q → exec (.suspend p) s =
      done (((s.setStack q ((s.engine q).stack.filter fun u => u ≠ t)).modTask t stopped).reEvaluate q)) ∧
    (∀ q, (s.task t).state = .claimed → ClaimedOn s t q → exec (.suspend p) s =
      done (((s.modSwitch q fun sw => { sw with claimed := none }).modTask t stopped).newChoice q)) ∧
    (∀ q, (s.task t).state = .running → RunsOn s t q →
      let s' := s.askOut q .suspend (.suspended .command)
      exec (.suspend p) s = .next (s'.answerDeferred p [low t.val, low (s'.task t).state.code]))

/-- What retiring a task does, by its state (R21, R22): a task that is not RUNNING leaves its place and its record takes the
free-record values; a RUNNING one is asked out with destination FREE. RETIRE retires the task and, where its partition is
purging, settles the purge at the same step (R45 (c), R46 (c)); it answers the id and the state the task then has, DEFERRED
where it was RUNNING. That a re-evaluation is part of the decision is log 8, that the purge is settled at the step is log
21. -/
def Obligations.RetiringFreesTheRecord : Prop :=
  ∀ (s : State) (t : TaskId),
    let free (s' : State) : State := s'.setTask t TaskRecord.freeRecord
    let k := (s.task t).partition
    ((s.task t).state = .dormant ∨ (s.task t).state = .held ∨ (s.task t).state = .suspended → s.retireTask t = free s) ∧
    ((s.task t).state = .ready → s.retireTask t = free (s.leaveQueue t)) ∧
    ((s.task t).state = .waiting → s.retireTask t = free ((s.leaveWaiters t).leaveDelayList t)) ∧
    (∀ q, (s.task t).state = .displaced → StackedOn s t q → s.retireTask t =
      (free (s.setStack q ((s.engine q).stack.filter fun u => u ≠ t))).reEvaluate q) ∧
    (∀ q, (s.task t).state = .claimed → ClaimedOn s t q → s.retireTask t =
      (free (s.modSwitch q fun sw => { sw with claimed := none })).newChoice q) ∧
    (∀ q, (s.task t).state = .running → RunsOn s t q → s.retireTask t = s.askOut q .retire .free) ∧
    (∀ p c, Issued s p 5 .manager c → OnTask s p c t →
      ∀ s', ((s.part k).purge = none → s' = s.retireTask t) →
        ((s.part k).purge ≠ none → s' = (s.retireTask t).settlePurge k) →
      let words := [low t.val, low (s'.task t).state.code]
      ((s.task t).state ≠ .free → (s.task t).state ≠ .running → exec (.retire p) s = .next (s'.answer p words)) ∧
      ((s.task t).state = .running → exec (.retire p) s = .next (s'.answerDeferred p words)))

/-- SET_PRIORITY by the state of its task (R23): the same priority changes nothing; a READY task moves to the tail of its
new place and is placed or re-evaluated; a WAITING one moves within its waiter list; a RUNNING one on a RUNNING PU may be
preempted; the PU of a READY handler, or of a handler RUNNING on a RUNNING PU, re-evaluates its urgent queue, and so nests a
handler that is now strictly more urgent where occupancy allows; any other task takes the value alone. That a former place
request is void is log 18, that a re-evaluation is part of the decision is log 8. -/
def Obligations.SetPriorityMovesTheTask : Prop :=
  ∀ (p : Pu) (c : Captured) (s : State) (t : TaskId) (q : Priority), Issued s p 6 .manager c → OnTask s p c t →
    (c.arg 1).toNat = q.val → (s.task t).state ≠ .free →
    let set (s' : State) : State := s'.modTask t fun r => { r with priority := q }
    let done (s' : State) : Host.Outcome State Fault Refusal :=
      .next (s'.answer p [low t.val, low (s'.task t).state.code])
    ((s.task t).priority = q → exec (.setPriority p) s = done s) ∧
    ((s.task t).priority ≠ q →
      ((s.task t).state = .ready → (s.task t).cls = .normal → exec (.setPriority p) s =
        done ((((set (s.leaveQueue t)).enterQueue t .tail).voidPlace t).request [.place t])) ∧
      ((s.task t).state = .ready → (s.task t).cls = .handler → exec (.setPriority p) s =
        done (((set (s.leaveQueue t)).enterQueue t .tail).reEvaluate (s.task t).homePu)) ∧
      (∀ ch, (s.task t).state = .waiting → (s.task t).waitChannel = some ch → exec (.setPriority p) s =
        done ((set (s.leaveWaiters t)).enterWaiters ch t)) ∧
      ((s.task t).state = .waiting → (s.task t).waitChannel = none → exec (.setPriority p) s = done (set s)) ∧
      ((s.task t).state = .dormant ∨ (s.task t).state = .held ∨ (s.task t).state = .suspended ∨
        (s.task t).state = .displaced ∨ (s.task t).state = .claimed → exec (.setPriority p) s = done (set s)) ∧
      (∀ r, (s.task t).state = .running → RunsOn s t r →
        ((s.engine r).st = .running t → (s.task t).cls = .handler →
          exec (.setPriority p) s = done ((set s).reEvaluate r)) ∧
        ((s.engine r).st = .running t → (s.task t).cls = .normal →
          exec (.setPriority p) s = done (match (set s).pickBelow r .none q.val with
            | some u => ((set s).beginSwitch r .preempt .readyHead).claimFor r u
            | none => set s)) ∧
        (∀ sw, (s.engine r).st = .switching sw → exec (.setPriority p) s = done (set s))))

/-- SET_AFFINITY by the state of its NORMAL task (R24): a READY task is placed anew where it stands; a claim outside the new
set is returned and its PU chooses anew; a running task outside it is asked out with READY-head; any other task takes the
set alone. That the place request of a returned claim follows the new choice is log 22. -/
def Obligations.SetAffinityMovesTheTask : Prop :=
  ∀ (p : Pu) (c : Captured) (s : State) (t : TaskId), Issued s p 7 .manager c → OnTask s p c t →
    (s.task t).state ≠ .free → (s.task t).cls = .normal → setArg (c.arg 1) ≠ 0 →
    let s1 := s.modTask t fun r => { r with affinity := setArg (c.arg 1) }
    let inSet (r : Pu) : Bool := (setArg (c.arg 1)).getLsbD r.val
    let done (s' : State) : Host.Outcome State Fault Refusal :=
      .next (s'.answer p [low t.val, low (s'.task t).state.code])
    ((s.task t).state ≠ .ready → (s.task t).state ≠ .claimed → (s.task t).state ≠ .running →
      exec (.setAffinity p) s = done s1) ∧
    ((s.task t).state = .ready → exec (.setAffinity p) s = done (s1.request [.place t])) ∧
    (∀ r, (s.task t).state = .claimed → ClaimedOn s t r →
      exec (.setAffinity p) s =
        done (if inSet r then s1 else ((s1.returnClaim r).newChoice r).request [.place t])) ∧
    (∀ r, (s.task t).state = .running → RunsOn s t r →
      exec (.setAffinity p) s = done (if inSet r then s1 else s1.askOut r .affinity .readyHead))

/-! ### Reads -/

/-- The reads change nothing but their port, and answer the record held when they are taken, laid out as R204 and R205 give
it: READ_TASK, READ_SELF, READ_PARTITION, READ_CHANNEL, READ_STATUS (R25, R138, R48, R121, R200), and READ_PU (R77), which
shows the whole units of 4 µs that remain on the deadline timer, 0 where it is stopped (R68, log 1). The location of a task
(R7): its PU at depth 0 where it is RUNNING or CLAIMED, its PU and its depth counted from the bottom of the stack where it is
DISPLACED, none otherwise. The codes are those of R203 and R204. -/
def Obligations.ReadsChangeOnlyTheirPort : Prop :=
  (∀ (p : Pu) (c : Captured) (s : State),
    let shown (o : Option Nat) : Nat := o.getD 255
    let id {n : Nat} (o : Option (Fin n)) : Nat := shown (o.map Fin.val)
    let flag (b : Bool) : Nat := if b then 1 else 0
    let taskRecord (t : TaskId) : List Word :=
      let r := s.task t
      [ packed [(0, t.val), (8, r.partition.val), (16, r.priority.val), (24, r.cls.code), (25, r.privilege.code),
          (32, r.affinity.toNat), (40, id (s.location t).1), (48, (s.location t).2), (56, id r.lastPu)],
        packed [(0, r.state.code), (8, id r.waitChannel), (16, waitResultCode r.waitResult),
          (24, stopReasonCode r.stopReason), (32, (r.wakeTick.map BitVec.toNat).getD 0)],
        r.entryWord, r.resumeWord,
        packed [(0, r.budgetLimit.toNat), (16, r.budgetWarn.toNat), (32, r.budgetUsed.toNat), (48, r.budgetAction.code),
          (50, flag r.warnFlag), (56, r.overrunCount.toNat)],
        packed [(0, r.dispatchCount.toNat), (16, flag r.wakeTick.isSome)] ]
    (∀ t, Issued s p 8 .user c → OnTask s p c t → exec (.readTask p) s = .next (s.answer p (taskRecord t))) ∧
    (∀ t, Captures s p 27 c → (s.engine p).runningTask = some t →
      exec (.readSelf p) s = .next (s.answer p (taskRecord t))) ∧
    (∀ k : Partition, Issued s p 12 .user c → (c.arg 0).toNat = k.val → s.inScope p k = true →
      exec (.readPartition p) s = .next (s.answer p
        [ low k.val, low (flag (s.part k).halted.isSome),
          low (match (s.part k).halted with
            | none => 0
            | some .command => 1
            | some (.budget _) => 2),
          low (match (s.part k).halted with
            | some (.budget t) => t.val
            | _ => 255),
          low (flag (s.part k).purge.isSome), packed [(0, (s.part k).readyCount), (32, (s.part k).memberCount)] ])) ∧
    (∀ ch : ChannelId, Issued s p 19 .user c → (c.arg 0).toNat = ch.val →
      let r := s.channel ch
      exec (.readChannel p) s = .next (s.answer p
        [ packed [(0, ch.val), (8, if ch.val < 16 then 0 else 1), (9, r.mode.code), (10, r.edge.code),
            (12, flag r.masked), (13, r.disposition.code)],
          packed [(0, r.pendingCount.toNat), (8, flag r.saturated)],
          low r.postRights.toNat, low r.arrivalCount.toNat, low r.waiters.length,
          packed (all8.map fun n => (8 * n.val, id r.waiters[n.val]?)) ])) ∧
    (Captures s p 36 c →
      let f := s.frame
      exec (.readStatus p) s = .next (s.answer p
        [ packed [(0, 0x5108), (16, 3), (24, f.state.code), (32, f.active.code), (40, f.windowIndex.val),
            (48, f.countdown.toNat), (56, f.earlySync.toNat)],
          packed [(0, f.tickCounter.toNat), (32, f.ticksRemaining.toNat), (48, f.gapTicks.toNat)],
          packed [(0, s.conds.word.toNat), (32, s.conds.enable.toNat)],
          packed (all8.map fun q => (8 * q.val, (s.engine q).st.code)),
          packed [(0, s.violation.count.toNat), (8, id s.violation.lastPu), (16, id s.violation.lastTask),
            (32, f.frameCounter.toNat)],
          low s.violation.lastKind.toNat ])) ∧
    (∀ q : Pu, Captures s p 16 c → (c.arg 0).toNat = q.val →
      let left : Nat := match (s.engine q).st with
        | .switching sw => sw.remaining.toNat
        | _ => 0
      exec (.readPu p) s = .next (s.answer p
        [ low q.val,
          packed [(0, (s.engine q).st.code), (8, switchReasonCode (s.engine q).switchReason),
            (16, destCode (s.engine q).pendingDest),
            (24, stopReasonCode ((s.engine q).pendingDest.bind Dest.stopReason)), (32, s.assignmentCode q)],
          packed [(0, id (s.engine q).runningTask), (8, id (s.engine q).claimedTask)],
          packed (([0, 1, 2, 3] : List Nat).map fun n => (8 * n, id (s.engine q).stack.reverse[n]?)),
          packed [(0, (s.engine q).stack.length), (8, (s.engine q).occupancy), (16, (s.urgentQueue q).length)],
          packed [(0, (s.engine q).faultCount.toNat), (8, (s.engine q).deferralCount.toNat), (16, left)] ]))) ∧
  (∀ (s : State) (t : TaskId),
    (∀ q, (s.task t).state = .running → RunsOn s t q → s.location t = (some q, 0)) ∧
    (∀ q, (s.task t).state = .claimed → ClaimedOn s t q → s.location t = (some q, 0)) ∧
    (∀ q above below, (s.task t).state = .displaced → StackedOn s t q → (s.engine q).stack = above ++ t :: below →
      t ∉ above → s.location t = (some q, below.length + 1)) ∧
    ((s.task t).state ≠ .running → (s.task t).state ≠ .claimed → (s.task t).state ≠ .displaced →
      s.location t = (none, 0))) ∧
  ([TaskState.free, .dormant, .ready, .claimed, .running, .displaced, .waiting, .held, .suspended].map TaskState.code =
      [0, 1, 2, 3, 4, 5, 6, 7, 8] ∧
    [TaskClass.normal, .handler].map TaskClass.code = [0, 1] ∧
    [Privilege.user, .manager, .supervisor].map Privilege.code = [0, 1, 2] ∧
    [none, some .signalled, some .timeout, some .elapsed, some .interrupted, some .channelReset].map waitResultCode =
      [0, 1, 2, 3, 4, 5] ∧
    [none, some .command, some .budget, some .stranded].map stopReasonCode = [0, 1, 2, 3] ∧
    [BudgetAction.note, .hold, .stop, .halt].map BudgetAction.code = [0, 1, 2, 3] ∧
    [none, some .preempt, some .window, some .urgent, some .unwind, some .suspend, some .retire, some .budget, some .halt,
      some .affinity, some .stop].map switchReasonCode = [0, 1, 2, 3, 4, 5, 6, 7, 8, 9, 10] ∧
    (∀ sw t, [EngineState.offline, .idle, .switching sw, .running t, .faulted].map EngineState.code = [0, 1, 2, 3, 4]) ∧
    [FrameState.stopped, .armed, .framing, .gap].map FrameState.code = [0, 1, 2, 3] ∧
    [BankId.a, .b].map BankId.code = [0, 1] ∧
    (∀ k, [MapEntry.part k, .opened, .idle].map MapEntry.code = [k.val, 8, 9]) ∧
    (∀ why, [none, some .free, some (.suspended why), some .held, some .displaced, some .readyHead].map destCode =
      [0, 1, 2, 3, 4, 5]) ∧
    [ChannelMode.signal, .pulse].map ChannelMode.code = [0, 1] ∧
    [EdgeSel.rising, .falling, .both].map EdgeSel.code = [0, 1, 2] ∧
    [Disposition.hold, .drop].map Disposition.code = [0, 1] ∧ [SyncMode.free, .sync].map SyncMode.code = [0, 1])

/-- READ_PLAN (R154): refused by class or range, otherwise the bank and whether it is active, its window count, the
countdown, the window's length and its eight map entries; nothing but the port changes. That the eight entries stand in one
result word is log 16, that a range is judged on the whole argument word is log 15. -/
def Obligations.ReadPlanShowsTheWindow : Prop :=
  ∀ (p : Pu) (c : Captured) (s : State), Captures s p 34 c →
    (s.classPasses p .supervisor = false → exec (.readPlan p) s = .next (s.protectRefused p 34)) ∧
    (s.classPasses p .supervisor = true → 1 < (c.arg 0).toNat ∨ 23 < (c.arg 1).toNat →
      exec (.readPlan p) s = .next (s.onlyAnswered p .refusedRange)) ∧
    (∀ (id : BankId) (i : WindowIndex), s.classPasses p .supervisor = true → (c.arg 0).toNat = id.code →
      (c.arg 1).toNat = i.val →
      let bank := if id = .a then s.frame.bankA else s.frame.bankB
      exec (.readPlan p) s = .next (s.answer p
        [ low id.code, low (if s.frame.active = id then 1 else 0), low bank.count.val, low s.frame.countdown.toNat,
          low (bank.windows[i]).length.toNat, packedBytes ((bank.windows[i]).map.toList.map MapEntry.code) ]))

/-! ### The Selector -/

/-- Eligibility (R34): the five conditions of a NORMAL task on a PU. For a pick that the PU makes, the entry is that of the
window in force and its stack is empty. For a place request it is not under urgent work, and the entry is that of the window
in force while no re-evaluation of the PU is outstanding; before a window start's re-evaluation it is the one in the former
window, which the re-evaluation carries (R167). Of several outstanding the oldest counts, and no task is eligible where one
of them had no window before it (log 30). The first runnable handler (R83): none while the PU is absent or the frame state is
neither FRAMING nor GAP; otherwise the first of the urgent queue whose partition is neither halted nor purging. -/
def Obligations.EligibleAndRunnableTasks : Prop :=
  ∀ (s : State) (p : Pu) (t : TaskId),
    let k := (s.task t).partition
    let mayRun : Prop := (s.task t).affinity.getLsbD p.val = true ∧
      ((s.engine p).st ≠ .offline ∧ (s.engine p).st ≠ .faulted) ∧
      (s.frame.state = .framing ∨ s.frame.state = .gap) ∧
      (s.part k).halted = none ∧ (s.part k).purge = none
    let inForce : MapEntry := (s.frame.activeBank.windows[s.frame.windowIndex]).map[p]
    let allows (entry : MapEntry) : Prop := entry = .part k ∨ entry = .opened
    let noUrgentWork : Prop := (s.engine p).stack = [] ∧
      (∀ u, (s.engine p).runningTask = some u → (s.task u).cls ≠ .handler) ∧
      ∀ u, (s.engine p).claimedTask = some u → (s.task u).cls ≠ .handler
    let waiting : List Request := s.requests.flatten
    (s.eligibleForPick p t = true ↔ mayRun ∧ allows inForce ∧ (s.engine p).stack = []) ∧
    ((∀ former, .window p former ∉ waiting) → (s.eligible p t = true ↔ mayRun ∧ allows inForce ∧ noUrgentWork)) ∧
    (∀ before former after, waiting = before ++ .window p (some former) :: after → (∀ e, .window p e ∉ before) →
      .window p none ∉ after → (s.eligible p t = true ↔ mayRun ∧ allows former ∧ noUrgentWork)) ∧
    (.window p none ∈ waiting → s.eligible p t = false) ∧
    (let runs (h : TaskId) : Prop :=
        (s.part (s.task h).partition).halted = none ∧ (s.part (s.task h).partition).purge = none;
      ((s.engine p).st = .offline ∨ (s.engine p).st = .faulted ∨ s.frame.state = .stopped ∨ s.frame.state = .armed →
        s.firstRunnable p .none = none) ∧
      (∀ h, s.firstRunnable p .none = some h →
        runs h ∧ ∃ before after, s.urgentQueue p = before ++ h :: after ∧ ∀ y ∈ before, ¬ runs y) ∧
      ((s.engine p).st ≠ .offline → (s.engine p).st ≠ .faulted → s.frame.state = .framing ∨ s.frame.state = .gap →
        s.firstRunnable p .none = none → ∀ y ∈ s.urgentQueue p, ¬ runs y))

/-- A pick below a bound returns the best eligible candidate: most urgent, then lower partition, then queue order; and none
only where no queue above the bound holds one (R38, R39). The queues are seen as `queueView` shows them: an outgoing task
counts at the head of its queue (R65 (b)), a yielding one at the tail (R131). -/
def Obligations.PickReturnsTheMostUrgentCandidate : Prop :=
  ∀ (s : State) (p : Pu) (x : Extra) (bound : Nat),
    (∀ t, s.pickBelow p x bound = some t →
      ∃ (k : Partition) (q : Priority) (before after : List TaskId), q.val < bound ∧
        s.queueView x k q = before ++ t :: after ∧ s.eligibleForPick p t = true ∧
        (∀ u ∈ before, s.eligibleForPick p u = false) ∧
        ∀ (k' : Partition) (q' : Priority) (u : TaskId), u ∈ s.queueView x k' q' → s.eligibleForPick p u = true →
          q < q' ∨ (q = q' ∧ k ≤ k')) ∧
    (s.pickBelow p x bound = none →
      ∀ (k : Partition) (q : Priority) (u : TaskId), q.val < bound → u ∈ s.queueView x k q →
        s.eligibleForPick p u = false) ∧
    (∀ k q, s.queueView .none k q = s.readyQueue k q) ∧
    (∀ t, (s.task t).cls = .normal →
      s.queueView (.head t) (s.task t).partition (s.task t).priority =
        t :: s.readyQueue (s.task t).partition (s.task t).priority ∧
      s.queueView (.tail t) (s.task t).partition (s.task t).priority =
        s.readyQueue (s.task t).partition (s.task t).priority ++ [t] ∧
      ∀ k q, (k, q) ≠ ((s.task t).partition, (s.task t).priority) →
        s.queueView (.head t) k q = s.readyQueue k q ∧ s.queueView (.tail t) k q = s.readyQueue k q)

/-- The unwind choice, entry by entry (R94 to R96): a runnable handler u goes ahead of an empty stack, of a NORMAL top and of
a less urgent handler; otherwise the top is popped and taken up, or returned to the head of its place and the choice begins
again; with nothing left it is the pick. A task T that stands as the top (pending DISPLACED) is tested first, as it stands:
it is taken where nothing goes ahead of it and it can be taken up. Where it is not, the choice goes on over the stack, and T
counts as passed over, but for a handler that a more urgent handler goes ahead of: that it does so is log 7. -/
def Obligations.UnwindTriesUrgentThenStackThenPick : Prop :=
  ∀ (s : State) (p : Pu) (u : Option TaskId) (x : Extra) (back : List TaskId),
    (∀ h, unwindStack p (some h) x [] s back = ⟨s, some h, back, false⟩) ∧
    unwindStack p none x [] s back = ⟨s, s.pick p x, back, false⟩ ∧
    (∀ T rest,
      let ahead : Prop := ∃ h, u = some h ∧ ((s.task T).cls = .normal ∨ (s.task h).priority < (s.task T).priority)
      let s1 := s.setStack p rest
      let up : Prop :=
        ((s.task T).cls = .handler ∧ (s.part (s.task T).partition).halted = none ∧
          (s.part (s.task T).partition).purge = none ∧ (s.frame.state = .framing ∨ s.frame.state = .gap)) ∨
        ((s.task T).cls = .normal ∧ s1.eligibleBase p T = true ∧ s1.pickBelow p .none (s.task T).priority.val = none)
      (ahead → unwindStack p u x (T :: rest) s back = ⟨s, u, back, false⟩) ∧
      (¬ ahead → up → unwindStack p u x (T :: rest) s back = ⟨s1, some T, back, false⟩) ∧
      (¬ ahead → ¬ up → unwindStack p u x (T :: rest) s back =
        unwindStack p u x rest (s1.makeReady T .head) (back ++ [T]))) ∧
    s.unwind p none x = unwindStack p (s.firstRunnable p x) x (s.engine p).stack s [] ∧
    (∀ T,
      let f := s.firstRunnable p x
      let more : Prop := ∃ h, f = some h ∧ (s.task h).priority < (s.task T).priority
      let blocked : Prop := (s.part (s.task T).partition).halted ≠ none ∨ (s.part (s.task T).partition).purge ≠ none
      let up : Prop := s.eligibleBase p T = true ∧ s.pickBelow p .none (s.task T).priority.val = none
      let passed : Choice := { unwindStack p f x (s.engine p).stack s [] with passedStanding := true }
      ((s.task T).cls = .normal →
        (∀ h, f = some h → s.unwind p (some T) x = ⟨s, some h, [], true⟩) ∧
        (f = none → up → s.unwind p (some T) x = ⟨s, some T, [], false⟩) ∧
        (f = none → ¬ up → s.unwind p (some T) x = passed)) ∧
      ((s.task T).cls = .handler →
        (more → s.unwind p (some T) x = ⟨s, f, [], false⟩) ∧
        (¬ more → ¬ blocked → s.frame.state = .framing ∨ s.frame.state = .gap →
          s.unwind p (some T) x = ⟨s, some T, [], false⟩) ∧
        (¬ more → blocked ∨ s.frame.state = .stopped ∨ s.frame.state = .armed → s.unwind p (some T) x = passed)))

/-- A claim (R53, R96): the task leaves its queue, becomes CLAIMED and fills the slot of a SWITCHING PU. A returned claim and
the entries of an emptied stack, top first, become READY at the head of their places (R32 (b), R64, R69 (b), (c)). -/
def Obligations.ClaimsAreTakenFromAndReturnedToQueues : Prop :=
  ∀ (s : State) (p : Pu) (sw : Switch), (s.engine p).st = .switching sw →
    let slot (s' : State) (o : Option TaskId) : State :=
      s'.setEngine p { s.engine p with st := .switching { sw with claimed := o } }
    (∀ t, s.claimFor p t = slot ((s.leaveQueue t).setTask t { s.task t with state := .claimed }) (some t)) ∧
    (∀ t, sw.claimed = some t → s.returnClaim p =
      ((slot s none).setTask t { s.task t with state := .ready, stopReason := none }).enterQueue t .head) ∧
    (∀ t u, sw.claimed = some t → s.retarget p u =
      ((s.returnClaim p).claimFor p u).request
        [match (s.task t).cls with
          | .normal => .place t
          | .handler => .urgent (s.task t).homePu .arrival]) ∧
    s.emptyStack p = (s.engine p).stack.foldl (fun s' t => s'.makeReady t .head)
      (s.setEngine p { s.engine p with stack := [] })

/-- A place request for a READY NORMAL task (R36): the lowest-numbered free PU on which it is eligible, in the sense of a place
request (R34, R167); else the RUNNING PU with the least urgent running task that it beats; else the SWITCHING PU with the
least urgent NORMAL claim that it beats; else nothing. For a task no longer READY, or a handler, it changes nothing (R35). -/
def Obligations.PlaceRequestTriesFourSteps : Prop :=
  ∀ (t : TaskId) (nth : Nat) (s : State) (rest : List (List Request)),
    NextRequest s (fun r => r = .place t) nth (.place t) rest →
    let s0 : State := { s with requests := rest }
    let limit := s.frame.handoverLimit
    let free (q : Pu) : Prop :=
      s0.eligible q t = true ∧ ((s.engine q).st = .idle ∨ ∃ sw, (s.engine q).st = .switching sw ∧ sw.claimed = none)
    let preempts (q : Pu) (r : TaskId) : Prop :=
      s0.eligible q t = true ∧ (s.engine q).st = .running r ∧ (s.task t).priority < (s.task r).priority
    let retargets (q : Pu) (u : TaskId) : Prop :=
      s0.eligible q t = true ∧ (s.engine q).claimedTask = some u ∧ (s.task u).cls = .normal ∧
        (s.task t).priority < (s.task u).priority
    let least (cand : Pu → TaskId → Prop) (q : Pu) (r : TaskId) : Prop :=
      cand q r ∧ ∀ q' r', cand q' r' → (s.task r').priority < (s.task r).priority ∨
        ((s.task r').priority = (s.task r).priority ∧ q ≤ q')
    let result (s' : State) : Prop := exec (.placeRequest ⟨t, nth⟩) s = .next s'
    ((s.task t).state ≠ .ready ∨ (s.task t).cls = .handler → result s0) ∧
    ((s.task t).state = .ready → (s.task t).cls = .normal →
      (∀ q, free q → (∀ q', free q' → q ≤ q') →
        ((s.engine q).st = .idle → result ((s0.setEngine q
          { s.engine q with
            st := .switching ⟨.preempt, none, none, limit, limit⟩, swreqRises := (s.engine q).swreqRises + 1 }).claimFor q t)) ∧
        (∀ sw, (s.engine q).st = .switching sw → result (s0.claimFor q t))) ∧
      ((∀ q, ¬ free q) → ∀ q r, least preempts q r → result ((s0.setEngine q
        { s.engine q with
          st := .switching ⟨.preempt, some ⟨r, .readyHead⟩, none, limit, limit⟩
          swreqRises := (s.engine q).swreqRises + 1 }).claimFor q t)) ∧
      ((∀ q, ¬ free q) → (∀ q r, ¬ preempts q r) → ∀ q u, least retargets q u →
        result (((s0.returnClaim q).claimFor q t).request [.place u])) ∧
      ((∀ q, ¬ free q) → (∀ q r, ¬ preempts q r) → (∀ q u, ¬ retargets q u) → result s0))

/-- What an urgent arrival decides for the first runnable handler f (R87 to R89): an IDLE PU claims it; it nests over a
NORMAL task, and over a less urgent handler while occupancy is below 4, and is deferred at 4; on a SWITCHING PU it takes an
empty slot, a NORMAL claim or a less urgent handler's claim, and a NORMAL outgoing task bound for READY-head is displaced.
A re-evaluation is such an arrival, but for an IDLE PU, which takes it as its own choice of next work (R90). URGENT_ARRIVAL
takes an outstanding arrival or re-evaluation; an absent PU ignores it (R86). -/
def Obligations.UrgentArrivalFollowsTheTable : Prop :=
  ∀ (s : State) (p : Pu),
    let limit := s.frame.handoverLimit
    let enter (o : Option Outgoing) (f : TaskId) : State :=
      (s.setEngine p { s.engine p with
        st := .switching ⟨.urgent, o, none, limit, limit⟩, swreqRises := (s.engine p).swreqRises + 1 }).claimFor p f
    (s.firstRunnable p .none = none → s.urgentArrival p = s) ∧
    (∀ f, s.firstRunnable p .none = some f →
      ((s.engine p).st = .idle → s.urgentArrival p = enter none f) ∧
      (∀ t, (s.engine p).st = .running t → (s.task t).cls = .normal → s.urgentArrival p = enter (some ⟨t, .displaced⟩) f) ∧
      (∀ h, (s.engine p).st = .running h → (s.task h).cls = .handler →
        ((s.task f).priority < (s.task h).priority → (s.engine p).stack.length < 4 →
          s.urgentArrival p = enter (some ⟨h, .displaced⟩) f) ∧
        ((s.task f).priority < (s.task h).priority → 4 ≤ (s.engine p).stack.length →
          s.urgentArrival p = (s.setEngine p
            { s.engine p with deferralCount := satInc (s.engine p).deferralCount }).latch .urgentDeferred) ∧
        ((s.task h).priority ≤ (s.task f).priority → s.urgentArrival p = s)) ∧
      (∀ sw, (s.engine p).st = .switching sw →
        (∀ c, sw.claimed = some c → (s.task c).cls = .handler →
          ((s.task f).priority < (s.task c).priority → s.urgentArrival p = s.retarget p f) ∧
          ((s.task c).priority ≤ (s.task f).priority → s.urgentArrival p = s)) ∧
        ((∀ c, sw.claimed = some c → (s.task c).cls = .normal) →
          let s1 := if sw.claimed = none then s.claimFor p f else s.retarget p f
          (∀ o, sw.outgoing = some ⟨o, .readyHead⟩ → (s.task o).cls = .normal → s.urgentArrival p =
            s1.setEngine p { s.engine p with
              st := .switching { sw with outgoing := some ⟨o, .displaced⟩, claimed := some f } }) ∧
          ((∀ o, sw.outgoing = some ⟨o, .readyHead⟩ → (s.task o).cls = .handler) → s.urgentArrival p = s1)))) ∧
    ((s.engine p).st = .idle → s.reEvaluate p = s.ownChoice p) ∧
    ((s.engine p).st ≠ .idle → s.reEvaluate p = s.urgentArrival p) ∧
    (∀ kind nth rest, NextRequest s (fun r => r = .urgent p kind) nth (.urgent p kind) rest →
      let s0 : State := { s with requests := rest }
      (kind = .arrival → exec (.urgentArrival p ⟨kind, nth⟩) s = .next (s0.urgentArrival p)) ∧
      (kind = .reEvaluation → exec (.urgentArrival p ⟨kind, nth⟩) s = .next (s0.reEvaluate p)) ∧
      ((s.engine p).st = .offline ∨ (s.engine p).st = .faulted → exec (.urgentArrival p ⟨kind, nth⟩) s = .next s0))

/-- A row that is not enabled changes nothing: a port command whose kind is not captured on its port (log 2), and a request
that is not outstanding or not next in its group (log 3). -/
def Obligations.RowsNotEnabledChangeNothing : Prop :=
  ∀ s : State,
    (∀ i p k, (∃ cls, classRow i = some (p, k, cls)) ∨ selfRow i = some (p, k) → CapturesNone s p k →
      exec i s = .next s) ∧
    (∀ t nth, nthRequest (fun r => r = .place t) nth s.requests = none → exec (.placeRequest ⟨t, nth⟩) s = .next s) ∧
    (∀ p kind nth, nthRequest (fun r => r = .urgent p kind) nth s.requests = none →
      exec (.urgentArrival p ⟨kind, nth⟩) s = .next s) ∧
    (∀ p nth, nthRequest (Request.isWindowOf p) nth s.requests = none → exec (.windowReEvaluation ⟨p, nth⟩) s = .next s) ∧
    (∀ k t, nthRequest (fun r => r = .halt k t) 0 s.requests = none → exec (.haltRequest k t) s = .next s) ∧
    (nthRequest (fun r => r = .budgetFrameStart) 0 s.requests = none → exec .budgetFrameStart s = .next s) ∧
    (nthRequest (fun r => r = .tickFrame) 0 s.requests = none →
      exec .windowEnd s = .next s ∧ exec .gapLimit s = .next s) ∧
    (nthRequest Request.isDelayTick 0 s.requests = none → exec .delayListExpiry s = .next s) ∧
    (∀ p, nthRequest (fun r => r = .charge p) 0 s.requests = none → exec (.budgetLimitReached p) s = .next s)

/-! ### Partitions -/

/-- A halt request (R40): on a halted partition it changes nothing; otherwise the partition is halted with its reason and
PARTITION_HALTED is latched; every PU that was RUNNING a task of it is SWITCHING with reason HALT, destination READY-head and
the limit then configured; afterwards no task of it is claimed, and every PU whose running task is of it is SWITCHING. The
engines with a running or claimed task of it take the request one by one, in an order the manual leaves open (log 6): each is
asked out where its running task is of it (R40 (c)), then returns a claim of it and chooses anew, with no place request; an
urgent arrival follows for a handler, which has entered its urgent queue (R40 (d), R86). HALT_PARTITION is a halt request
with reason COMMAND, answered with the partition and 1 if it halted it, 0 otherwise (R42); HALT_REQUEST takes the one a
budget made, with reason BUDGET and its task (R178). -/
def Obligations.HaltSwitchesThePartitionOut : Prop :=
  ∀ (s : State) (k : Partition) (why : HaltReason),
    let s' := s.haltPartition k why
    ((s.part k).halted ≠ none → s' = s) ∧
    ((s.part k).halted = none →
      (s'.part k).halted = some why ∧ (∀ j, j ≠ k → (s'.part j).halted = (s.part j).halted) ∧
      s'.latched .partitionHalted = true ∧ s'.frame = s.frame ∧ s'.ports = s.ports ∧ s'.channels = s.channels ∧
      s'.delayList = s.delayList ∧
      (∀ q t, (s.engine q).st = .running t → (s.task t).partition = k →
        ∃ claimed, (s'.engine q).st = .switching
          ⟨.halt, some ⟨t, .readyHead⟩, claimed, s.frame.handoverLimit, s.frame.handoverLimit⟩) ∧
      (∀ q, (∀ t, (s'.engine q).claimedTask = some t → (s'.task t).partition ≠ k) ∧
        (∀ t, (s'.engine q).runningTask = some t → (s'.task t).partition = k → s'.swreq q = true)) ∧
      (∀ q, (∀ t, (s.engine q).runningTask = some t → (s.task t).partition ≠ k) →
        (∀ t, (s.engine q).claimedTask = some t → (s.task t).partition ≠ k) → s'.engine q = s.engine q) ∧
      ∃ order : List Pu, order.Nodup ∧
        (∀ q, q ∈ order ↔ (∃ t, (s.engine q).runningTask = some t ∧ (s.task t).partition = k) ∨
          ∃ t, (s.engine q).claimedTask = some t ∧ (s.task t).partition = k) ∧
        s' = order.foldl (fun x q => x.haltEngine k q)
          { (s.setPart k { s.part k with halted := some why }).latch .partitionHalted with freeIndex := s.freeIndex + 1 }) ∧
    (∀ (q : Pu) (s1 : State),
      let mine : Prop := ∃ t, (s.engine q).runningTask = some t ∧ (s.task t).partition = k
      (mine → s1 = s.askOut q .halt .readyHead) → (¬ mine → s1 = s) →
      ((∀ u, (s1.engine q).claimedTask = some u → (s1.task u).partition ≠ k) → s.haltEngine k q = s1) ∧
      ∀ u, (s1.engine q).claimedTask = some u → (s1.task u).partition = k →
        ((s1.task u).cls = .normal → s.haltEngine k q = (s1.returnClaim q).newChoice q) ∧
        ((s1.task u).cls = .handler → s.haltEngine k q =
          ((s1.returnClaim q).newChoice q).request [.urgent (s1.task u).homePu .arrival])) ∧
    (∀ p c, Issued s p 9 .supervisor c → (c.arg 0).toNat = k.val →
      exec (.haltPartition p) s = .next ((s.haltPartition k .command).answer p
        [low k.val, low (if (s.part k).halted = none then 1 else 0)])) ∧
    (∀ t rest, NextRequest s (fun r => r = .halt k t) 0 (.halt k t) rest →
      exec (.haltRequest k t) s = .next (State.haltPartition k (.budget t) { s with requests := rest }))

/-- RELEASE_PARTITION clears the halt and its reason; place requests for the READY NORMAL tasks in ascending queue order
follow, then re-evaluations of the urgent queues that hold a handler of the partition, in ascending PU number (R43). That
they are outstanding requests, in one group, is log 3 and log 8. -/
def Obligations.ReleasePlacesTheReadyTasksInOrder : Prop :=
  ∀ (p : Pu) (c : Captured) (s : State) (k : Partition), Issued s p 10 .supervisor c → (c.arg 0).toNat = k.val →
    (s.part k).halted ≠ none →
    let ready := s.readyQueue k 0 ++ s.readyQueue k 1 ++ s.readyQueue k 2 ++ s.readyQueue k 3 ++ s.readyQueue k 4 ++
      s.readyQueue k 5 ++ s.readyQueue k 6 ++ s.readyQueue k 7
    let pus := ([0, 1, 2, 3, 4, 5, 6, 7] : List Pu).filter fun q =>
      (s.urgentQueue q).any fun t => (s.task t).partition = k
    exec (.releasePartition p) s =
      .next (((s.setPart k { s.part k with halted := none }).request
        (ready.map Request.place ++ pus.map fun q => .urgent q .reEvaluation)).answer p [low k.val])

/-- PURGE_PARTITION sets purging with the member count, the issuer's running task as deferred task where it is of the
partition, and the port that waits; it retires every other task of the partition in ascending id order, and ends at once
where that leaves none (R44). -/
def Obligations.PurgeRetiresThePartition : Prop :=
  ∀ (p : Pu) (c : Captured) (s : State) (k : Partition) (deferred : Option TaskId),
    Issued s p 11 .supervisor c → (c.arg 0).toNat = k.val → (s.part k).purge = none →
    (∀ t, deferred = some t ↔ (s.engine p).runningTask = some t ∧ (s.task t).partition = k) →
    let todo := allTasks.filter fun t => (s.task t).state ≠ .free ∧ (s.task t).partition = k ∧ deferred ≠ some t
    let begun := s.setPart k { s.part k with purge := some ⟨(s.part k).memberCount, deferred, some p, false⟩ }
    exec (.purgePartition p) s = .next ((todo.foldl (fun s' t => s'.retireTask t) begun).settlePurge k)

/-- The end of a purge (R46): it waits while a task of the partition other than the deferred task is not FREE. Then its port
is answered with the partition and the purge count, and purging clears; where the deferred task is not FREE it is retired at
that decision instead, and purging clears once it is FREE (log 21). -/
def Obligations.PurgeEndsWhenTheOthersAreFree : Prop :=
  ∀ (s : State) (k : Partition) (g : Purge), (s.part k).purge = some g →
    let setPurge (s' : State) (x : Option Purge) : State := s'.setPart k { s'.part k with purge := x }
    let alive (t : TaskId) : Prop := (s.task t).state ≠ .free ∧ (s.task t).partition = k
    let answered : State := match g.port with
      | some p => s.answer p [low k.val, low g.count]
      | none => s
    (g.ended = false →
      ((∃ t, g.deferred ≠ some t ∧ alive t) → s.settlePurge k = s) ∧
      ((∀ t, g.deferred ≠ some t → ¬ alive t) →
        ((∀ t, g.deferred = some t → ¬ alive t) → s.settlePurge k = setPurge answered none) ∧
        (∀ t, g.deferred = some t → alive t → s.settlePurge k =
          ((setPurge answered (some { g with port := none, ended := true })).retireTask t).clearPurge k))) ∧
    (g.ended = true → s.settlePurge k = s.clearPurge k ∧
      ((∃ t, g.deferred = some t ∧ alive t) → s.clearPurge k = s) ∧
      ((∀ t, g.deferred = some t → ¬ alive t) → s.clearPurge k = setPurge s none))

/-! ### PU Engines -/

/-- SWREQ of a PU is asserted exactly while the PU is SWITCHING, and each switch that begins raises it anew, which the count of
its rises shows (R54, log 19). A request to switch a PU out (R55, R57, R58): a RUNNING PU enters SWITCHING with the reason,
its running task as outgoing task, the destination, the limit in force and a full timer, and claims what its choice returns;
on a SWITCHING PU the destination replaces the pending one only if it ranks strictly higher, and a push given up lets the PU
re-evaluate its urgent queue (R90 (c), at the same decision by log 8); in any other state nothing changes. -/
def Obligations.SwitchRequestsActByEngineState : Prop :=
  ∀ (s : State) (q : Pu) (why : SwitchReason) (d : Dest),
    let limit := s.frame.handoverLimit
    (s.swreq q = true ↔ ∃ sw, (s.engine q).st = .switching sw) ∧
    (∀ t, (s.engine q).st = .running t →
      let begun := s.setEngine q { s.engine q with
        st := .switching ⟨why, some ⟨t, d⟩, none, limit, limit⟩, swreqRises := (s.engine q).swreqRises + 1 }
      let choice := begun.unwind q none .none
      let claimed := match choice.chosen with
        | some u => choice.st.claimFor q u
        | none => choice.st
      s.askOut q why d = claimed.request (claimed.readyRequests choice.returned)) ∧
    (∀ sw o, (s.engine q).st = .switching sw → sw.outgoing = some o →
      (o.dest.rank < d.rank →
        let s1 := s.setEngine q { s.engine q with st := .switching { sw with outgoing := some ⟨o.task, d⟩ } }
        s.askOut q why d = if o.dest = .displaced then s1.reEvaluate q else s1) ∧
      (d.rank ≤ o.dest.rank → s.askOut q why d = s)) ∧
    (∀ sw, (s.engine q).st = .switching sw → sw.outgoing = none → s.askOut q why d = s) ∧
    ((s.engine q).st = .idle ∨ (s.engine q).st = .offline ∨ (s.engine q).st = .faulted → s.askOut q why d = s) ∧
    (∀ r, Dest.rank .readyHead < Dest.rank .displaced ∧ Dest.rank .displaced < Dest.rank .held ∧
      Dest.rank .held < Dest.rank (.suspended r) ∧ Dest.rank (.suspended r) < Dest.rank .free)

/-- A new choice of claim on a SWITCHING PU (R65, R66): the outgoing task stands as the top of the stack where it is bound
for DISPLACED, at the head of its queue where it is NORMAL and bound for READY-head, and nowhere otherwise. A choice that
returns it withdraws the switch; any other task is claimed; passing over it as the top turns DISPLACED into READY-head. When
the top counts as passed over is log 7. -/
def Obligations.NewChoiceClaimsOrWithdraws : Prop :=
  ∀ (s : State) (q : Pu) (sw : Switch), (s.engine q).st = .switching sw →
    ∀ (standing : Option TaskId) (x : Extra),
    (∀ t, standing = some t ↔ sw.outgoing = some ⟨t, .displaced⟩) →
    (∀ t, x = .head t ↔ sw.outgoing = some ⟨t, .readyHead⟩ ∧ (s.task t).cls = .normal) → (∀ t, x ≠ .tail t) →
    let choice := s.unwind q standing x
    let passed := if choice.passedStanding
      then choice.st.modSwitch q fun w => { w with outgoing := w.outgoing.map fun o => ⟨o.task, .readyHead⟩ }
      else choice.st
    let followed (s' : State) : State := s'.request (s'.readyRequests choice.returned)
    (choice.chosen = none → s.newChoice q = followed passed) ∧
    (∀ t, choice.chosen = some t → sw.outgoing.map Outgoing.task ≠ some t → s.newChoice q = followed (passed.claimFor q t)) ∧
    (∀ t d, choice.chosen = some t → sw.outgoing = some ⟨t, d⟩ →
      s.newChoice q = followed (passed.setEngine q { passed.engine q with st := .running t }))

/-- JOIN takes an OFFLINE PU to IDLE and it makes its own choice of next work; LEAVE takes an IDLE PU to OFFLINE, its urgent
queue and counts kept (R72, R73). The own choice of an IDLE PU (R63 (a), R165 (a)): a task the choice returns is claimed, and
the PU enters SWITCHING with reason UNWIND and no outgoing task, SWREQ rising anew (R54, log 19); otherwise it stays IDLE. -/
def Obligations.JoinLeaveAndTheOwnChoice : Prop :=
  ∀ (s : State) (q : Pu) (c : Captured),
    (Issued s q 13 .puLevel c → (s.engine q).st = .offline →
      exec (.join q) s = .next (((s.setEngine q { s.engine q with st := .idle }).answer q []).ownChoice q)) ∧
    (Issued s q 14 .puLevel c → (s.engine q).st = .idle →
      exec (.leave q) s = .next ((s.setEngine q { s.engine q with st := .offline }).answer q [])) ∧
    ((s.engine q).st = .idle →
      let limit := s.frame.handoverLimit
      let choice := s.unwind q none .none
      (choice.chosen = none → s.ownChoice q = choice.st.request (choice.st.readyRequests choice.returned)) ∧
      (∀ t, choice.chosen = some t →
        let s1 := (choice.st.setEngine q
          { choice.st.engine q with
            st := .switching ⟨.unwind, none, none, limit, limit⟩
            swreqRises := (choice.st.engine q).swreqRises + 1 }).claimFor q t
        s.ownChoice q = s1.request (s1.readyRequests choice.returned)))

/-- Where the outgoing task goes at completion (R61), after the word the HANDOVER carries has replaced its resume word: FREE
and, where a purge waits for it, the purge's end; SUSPENDED or HELD with the stop reason; the top of the stack; READY-head.
The task that becomes RUNNING (R4, R6, R62) leaves its queue or slot, its dispatch count rises by one up to 65,535, the PU
becomes its last PU, its wait result leaves the record. That the purge's end is part of the move is log 21, that it comes
before the PU's own choice log 29. -/
def Obligations.CompletionMovesBothTasks : Prop :=
  ∀ (s : State) (p : Pu) (t : TaskId) (w : Option Word),
    let r := s.task t
    let kept : TaskRecord := { r with resumeWord := w.getD r.resumeWord }
    s.sendOut p ⟨t, .free⟩ w = (s.setTask t TaskRecord.freeRecord).settlePurge r.partition ∧
    (∀ why, s.sendOut p ⟨t, .suspended why⟩ w = s.setTask t { kept with state := .suspended, stopReason := some why }) ∧
    s.sendOut p ⟨t, .held⟩ w = s.setTask t { kept with state := .held, stopReason := some .budget } ∧
    s.sendOut p ⟨t, .displaced⟩ w =
      (s.setTask t { kept with state := .displaced }).setEngine p { s.engine p with stack := t :: (s.engine p).stack } ∧
    s.sendOut p ⟨t, .readyHead⟩ w =
      (s.setTask t { kept with state := .ready, stopReason := none }).enterQueue t .head ∧
    s.run p t = ((s.leaveQueue t).setTask t
      { r with
        state := .running, lastPu := some p, waitResult := none
        dispatchCount := if r.dispatchCount = 65535 then 65535 else r.dispatchCount + 1 }).setEngine p
      { s.engine p with st := .running t }

/-- HANDOVER of a SWITCHING PU (R61 to R63): the outgoing task reaches its destination with the word carried, or its own
under the "none" flag. With a claim the claimed task becomes RUNNING and is delivered with outcome SWITCHED; with none the PU
is IDLE, is answered IDLE and makes its own choice. The request for an outgoing task at READY-head follows. That the end of a
purge, where the outgoing task goes to FREE, comes before that choice is log 29. -/
def Obligations.HandoverCompletesTheSwitch : Prop :=
  ∀ (p : Pu) (c : Captured) (s : State) (sw : Switch), Captures s p 15 c → (s.engine p).st = .switching sw →
    let word : Option Word := if (c.arg 1).getLsbD 0 = true then none else some (c.arg 0)
    let out : State := match sw.outgoing with
      | some o => s.sendOut p o word
      | none => s
    let followed (s' : State) : State := match sw.outgoing with
      | some ⟨t, .readyHead⟩ => s'.request [out.readyRequest t]
      | _ => s'
    (∀ t, sw.claimed = some t → exec (.handover p) s = .next (followed
      ((out.run p t).respond p .done .switched false
        [low t.val, (out.task t).resumeWord, low (waitResultCode (out.task t).waitResult),
          low (switchReasonCode (some sw.reason))]))) ∧
    (sw.claimed = none → exec (.handover p) s = .next (followed
      (((out.setEngine p { out.engine p with st := .idle }).respond p .done .idle false
        [low 255, 0, 0, low (switchReasonCode (some sw.reason))]).ownChoice p)))

/-- The outgoing task of PU p and what its PU gave up, as an expiry and RESET_PU leave them (R69 (a) to (c), R75 (d) to (f)):
FREE where that is its pending destination, else SUSPENDED and STRANDED with the word it held; the claim, then the stack top
first, back at the head of their places; the engine in the state given. A command
outstanding on its port is answered with the event's status, window and overrun flag kept, and a purge that waited for that
port goes on without one; a port that is not BUSY is left (R47, R191). -/
def Obligations.TakingAPuDownReturnsItsWork : Prop :=
  ∀ (s : State) (p : Pu) (st : EngineState) (status : Status),
    let dropped : State := match (s.engine p).runningTask with
      | some t =>
        if (s.engine p).pendingDest = some .free then s.setTask t TaskRecord.freeRecord
        else s.setTask t { s.task t with state := .suspended, stopReason := some .stranded }
      | none => s
    let s1 := (dropped.returnClaim p).emptyStack p
    let s' := s.endOutstanding p status
    s.takeDown p st = s1.setEngine p
      { s.engine p with st := st, stack := [] } ∧
    ((∀ c, (s.port p).state ≠ .busy c) → s' = s) ∧
    (∀ c, (s.port p).state = .busy c →
      { s' with partitions := s.partitions } = s.respond p status .none false [] ∧
      ∀ k, (s'.part k).halted = (s.part k).halted ∧ (s'.part k).memberCount = (s.part k).memberCount ∧
        (s'.part k).readyCount = (s.part k).readyCount ∧
        (∀ g, (s.part k).purge = some g →
          (s'.part k).purge = some (if g.port = some p then { g with port := none } else g)) ∧
        ((s.part k).purge = none → (s'.part k).purge = none))

/-- HANDOVER_DEADLINE_EXPIRY of a SWITCHING PU (R69): the PU is taken down to FAULTED, its fault count rises up to 255,
PU_FAULTp is latched, a command outstanding on its port is answered PU_FAULTED, and the requests for its claim and its stack
follow; a purge that waited for its task may end (R46, log 21). The timer expires when its limit has elapsed (R68): what was
left of it has passed on every running timer before. Where the PU is not SWITCHING, or another running timer has less time
left, nothing changes (log 1).
RESET_PU of another PU (R75): the target is taken down to OFFLINE, a command outstanding on its port is answered ABORTED, the
response gives the target and the state it held, and the same requests follow; counts and conditions are kept. -/
def Obligations.DeadlineExpiryAndResetPu : Prop :=
  ∀ (p : Pu) (s : State),
    (s.pins.resetLow = false → s.swreq p = false → exec (.handoverDeadlineExpiry p) s = .next s) ∧
    (∀ sw q sw', s.pins.resetLow = false → (s.engine p).st = .switching sw → (s.engine q).st = .switching sw' →
      sw'.remaining < sw.remaining → exec (.handoverDeadlineExpiry p) s = .next s) ∧
    (∀ sw, s.pins.resetLow = false → (s.engine p).st = .switching sw →
      (∀ q sw', (s.engine q).st = .switching sw' → sw.remaining ≤ sw'.remaining) →
      let down := (s.elapse sw.remaining).takeDown p .faulted
      let faulted := (down.setEngine p { down.engine p with faultCount := satInc (s.engine p).faultCount }).latch (.puFault p)
      let answered := faulted.endOutstanding p .puFaulted
      let followed := answered.request (answered.readyRequests ((s.engine p).claimedTask.toList ++ (s.engine p).stack))
      ((s.engine p).runningTask = none → exec (.handoverDeadlineExpiry p) s = .next followed) ∧
      (∀ t, (s.engine p).runningTask = some t →
        exec (.handoverDeadlineExpiry p) s = .next (followed.settlePurge (s.task t).partition))) ∧
    (∀ q c, Issued s p 17 .supervisor c → (c.arg 0).toNat = q.val → q ≠ p →
      let answered := ((s.takeDown q .offline).endOutstanding q .aborted).answer p [low q.val, low (s.engine q).st.code]
      let followed := answered.request (answered.readyRequests ((s.engine q).claimedTask.toList ++ (s.engine q).stack))
      ((s.engine q).runningTask = none → exec (.resetPu p) s = .next followed) ∧
      (∀ t, (s.engine q).runningTask = some t →
        exec (.resetPu p) s = .next (followed.settlePurge (s.task t).partition)))

/-- A window re-evaluation (R164 to R167). The first one after STOPPED or ARMED has a PU at work judge its urgent queue first
(log 9). An IDLE PU makes its own choice; a NORMAL running task whose entry is gone is switched out with reason WINDOW, one
that keeps it gives way to a more urgent candidate; a handler runs on. An empty slot of a SWITCHING PU is chosen anew (R65,
R166 (d); also under urgent work, log 28); a filled one under urgent work is kept, with all else; otherwise a NORMAL claim
whose entry is gone is returned, one that keeps it gives way to a more urgent candidate, and the switch is withdrawn where
that is the outgoing task. With no window in force nothing changes (log 20). The place request of a returned claim follows
the new choice (log 22). -/
def Obligations.WindowReEvaluationFollowsTheTable : Prop :=
  ∀ (s : State) (p : Pu),
    let limit := s.frame.handoverLimit
    let entry : MapEntry := (s.frame.activeBank.windows[s.frame.windowIndex]).map[p]
    let allows (t : TaskId) : Prop := entry = .part (s.task t).partition ∨ entry = .opened
    (∀ former nth rest, NextRequest s (Request.isWindowOf p) nth (.window p former) rest →
      exec (.windowReEvaluation ⟨p, nth⟩) s =
        .next (State.windowReEvaluate p (former = none) { s with requests := rest })) ∧
    ((s.engine p).working = true → s.windowReEvaluate p true = (s.urgentArrival p).windowReEvaluate p false) ∧
    ((s.engine p).working = false → s.windowReEvaluate p true = s.windowReEvaluate p false) ∧
    (s.frame.state = .stopped ∨ s.frame.state = .armed → s.windowReEvaluate p false = s) ∧
    (s.frame.state = .framing ∨ s.frame.state = .gap →
      ((s.engine p).st = .idle → s.windowReEvaluate p false = s.ownChoice p) ∧
      ((s.engine p).st = .offline ∨ (s.engine p).st = .faulted → s.windowReEvaluate p false = s) ∧
      (∀ t, (s.engine p).st = .running t →
        ((s.task t).cls = .handler → s.windowReEvaluate p false = s) ∧
        ((s.task t).cls = .normal → ¬ allows t → s.windowReEvaluate p false = s.askOut p .window .readyHead) ∧
        ((s.task t).cls = .normal → allows t → s.windowReEvaluate p false =
          match s.pickBelow p .none (s.task t).priority.val with
          | some u => (s.setEngine p
              { s.engine p with
                st := .switching ⟨.preempt, some ⟨t, .readyHead⟩, none, limit, limit⟩
                swreqRises := (s.engine p).swreqRises + 1 }).claimFor p u
          | none => s)) ∧
      (∀ sw, (s.engine p).st = .switching sw →
        let urgent : Prop := (s.engine p).stack ≠ [] ∨ (s.engine p).pendingDest = some .displaced ∨
          (∃ t, (s.engine p).runningTask = some t ∧ (s.task t).cls = .handler) ∨
          ∃ t, sw.claimed = some t ∧ (s.task t).cls = .handler
        (sw.claimed = none → s.windowReEvaluate p false = s.newChoice p) ∧
        (sw.claimed ≠ none → urgent → s.windowReEvaluate p false = s) ∧
        (∀ c, ¬ urgent → sw.claimed = some c → ¬ allows c → s.windowReEvaluate p false =
          ((s.returnClaim p).newChoice p).request [.place c]) ∧
        (∀ c, ¬ urgent → sw.claimed = some c → allows c →
          let best := s.pickBelow p (s.outgoingAtHead sw) (s.task c).priority.val
          (best = none → s.windowReEvaluate p false = s) ∧
          (∀ n, best = some n → sw.outgoing.map Outgoing.task = some n → s.windowReEvaluate p false =
            ((s.returnClaim p).setEngine p { s.engine p with st := .running n }).request [.place c]) ∧
          (∀ n, best = some n → sw.outgoing.map Outgoing.task ≠ some n →
            s.windowReEvaluate p false = s.retarget p n))))

/-! ### Channels and the Delay List -/

/-- An arrival of n at a channel (R108 to R113): it is counted; a masked channel keeps the n units or drops them by its
disposition; an unmasked SIGNAL channel wakes its first waiters, one a unit, and keeps the rest; an unmasked PULSE channel
wakes every waiter and keeps none. Units above 255 are discarded and latch the saturated flag and PENDING_SATURATED. POST
makes an arrival of its count (R116); a change of level on EVn that the edge selection takes, one of 1 at channel n (R111).
-/
def Obligations.ArrivalFollowsTheTable : Prop :=
  ∀ (s : State) (ch : ChannelId) (n : Nat),
    let r := s.channel ch
    let keep (m : Nat) : State :=
      let full : Bool := 255 < r.pendingCount.toNat + m
      let s1 := s.setChannel ch
        { r with
          arrivalCount := r.arrivalCount + 1
          pendingCount := if full then 255 else r.pendingCount + BitVec.ofNat 8 m
          saturated := if full then true else r.saturated }
      if full then s1.latch .pendingSaturated else s1
    let waking (ts : List TaskId) (s' : State) : State :=
      let s1 := ts.foldl (fun x t => x.wake t .signalled) s'
      s1.request (s1.readyRequests ts)
    let woken : List TaskId := if r.masked then [] else if r.mode = .signal then r.waiters.take n else r.waiters
    (r.masked = true → r.disposition = .drop → s.arrive ch n = keep 0) ∧
    (r.masked = true → r.disposition = .hold → s.arrive ch n = keep n) ∧
    (r.masked = false → r.mode = .signal →
      s.arrive ch n = waking (r.waiters.take n) (keep (n - r.waiters.length))) ∧
    (r.masked = false → r.mode = .pulse → s.arrive ch n = waking r.waiters (keep 0)) ∧
    (∀ p c, Issued s p 18 .user c → (c.arg 0).toNat = ch.val → 16 ≤ ch.val → (c.arg 1).toNat = n → 1 ≤ n → n ≤ 255 →
      s.effectivePrivilege p = some .supervisor ∨
        (∃ t, (s.engine p).runningTask = some t ∧ r.postRights.getLsbD (s.task t).partition.val = true) →
      let s' := s.arrive ch n
      exec (.post p) s = .next (s'.answer p
        [low ch.val, low woken.length, low (s'.channel ch).pendingCount.toNat,
          low (if (s'.channel ch).saturated then 1 else 0)])) ∧
    (∀ (line : Line) (level : Bool), ch.val = line.val →
      let s1 : State := { s with pins := { s.pins with events := withLevel line level s.pins.events } }
      let taken : Prop := s.pins.resetLow = false ∧ s.pins.events.getLsbD line.val ≠ level ∧
        (r.edge = .both ∨ (r.edge = .rising ∧ level = true) ∨ (r.edge = .falling ∧ level = false))
      (taken → exec (.eventLineEdge line level) s = .next (s1.arrive ch 1)) ∧
      (¬ taken → exec (.eventLineEdge line level) s = .next s1) ∧
      ∀ m : Line, (withLevel line level s.pins.events).getLsbD m.val =
        if m = line then level else s.pins.events.getLsbD m.val)

/-- MASK sets the masked flag alone (R117). UNMASK clears it and gives the held units to the waiters by the mode, and changes
nothing on an unmasked channel (R118). BIND stores the configuration, RISING on a SOFT channel and empty post rights on a
LINE channel, discards the units and releases every waiter with CHANNEL_RESET (R119, R120); the order of its arguments is log
16. -/
def Obligations.ChannelCommandsSetUpTheChannel : Prop :=
  ∀ (p : Pu) (c : Captured) (s : State) (ch : ChannelId), (c.arg 0).toNat = ch.val →
    let r := s.channel ch
    let waking (why : WaitResult) (ts : List TaskId) (s' : State) : State :=
      let s1 := ts.foldl (fun x t => x.wake t why) s'
      s1.request (s1.readyRequests ts)
    (Issued s p 21 .supervisor c → exec (.mask p) s =
      .next ((s.setChannel ch { r with masked := true }).answer p [low ch.val, low r.pendingCount.toNat])) ∧
    (Issued s p 22 .supervisor c →
      (r.masked = false → exec (.unmask p) s =
        .next (s.answer p [low ch.val, low 0, low r.pendingCount.toNat])) ∧
      (r.masked = true → r.mode = .signal →
        let woken := r.waiters.take r.pendingCount.toNat
        let left := r.pendingCount - BitVec.ofNat 8 woken.length
        exec (.unmask p) s = .next
          ((waking .signalled woken (s.setChannel ch { r with masked := false, pendingCount := left })).answer p
            [low ch.val, low woken.length, low left.toNat])) ∧
      (r.masked = true → r.mode = .pulse →
        let woken := if r.pendingCount = 0 then [] else r.waiters
        exec (.unmask p) s = .next
          ((waking .signalled woken (s.setChannel ch { r with masked := false, pendingCount := 0 })).answer p
            [low ch.val, low woken.length, low 0]))) ∧
    (∀ (mode : ChannelMode) (edge : EdgeSel) (disp : Disposition), Issued s p 20 .supervisor c →
      (c.arg 1).toNat = mode.code → (c.arg 2).toNat = edge.code → (c.arg 4).toNat = disp.code →
      let bound : Channel :=
        { r with
          mode := mode, masked := (c.arg 3).getLsbD 0, disposition := disp, pendingCount := 0, saturated := false
          edge := if ch.val < 16 then edge else .rising
          postRights := if ch.val < 16 then 0 else setArg (c.arg 5) }
      exec (.bind p) s = .next ((waking .channelReset r.waiters (s.setChannel ch bound)).answer p
        [low ch.val, low r.waiters.length]))

/-- A wake takes its task off the waiter list and off the Delay List, sets its wait result and makes it READY at the tail
(R112). A task enters a waiter list as the last of its class and priority group (R105, R106), and the Delay List behind every
entry that falls due no later and ahead of the next one that falls due later (R140). A tick the Delay List takes wakes every
due entry in list order, TIMEOUT for a timed WAIT and ELAPSED for a DELAY, and their requests follow (R141, R142). -/
def Obligations.WakesAndWaitListsKeepTheirOrder : Prop :=
  ∀ (s : State) (t : TaskId),
    (∀ result,
      let off : State := match (s.task t).waitChannel with
        | some ch => s.setChannel ch
            { s.channel ch with waiters := (s.channel ch).waiters.filter fun u => u ≠ t }
        | none => s
      s.wake t result = (State.setTask t
        { s.task t with
          state := .ready, waitChannel := none, wakeTick := none, waitResult := some result, stopReason := none }
        { off with delayList := s.delayList.filter fun u => u ≠ t }).enterQueue t .tail) ∧
    (∀ ch,
      let key (u : TaskId) : Nat := (if (s.task u).cls = .handler then 0 else 8) + (s.task u).priority.val
      ∃ before after, (s.channel ch).waiters = before ++ after ∧ (∀ u ∈ before, key u ≤ key t) ∧
        (∀ u, after.head? = some u → key t < key u) ∧
        s.enterWaiters ch t = (s.setChannel ch { s.channel ch with waiters := before ++ t :: after }).setTask t
          { s.task t with waitChannel := some ch }) ∧
    (∀ ticks : BitVec 32,
      let wake := s.frame.tickCounter + ticks
      ∃ before after, s.delayList = before ++ after ∧
        (∀ u ∈ before, (wake - s.wakeOf u).toNat < 2 ^ 31) ∧
        (∀ u, after.head? = some u → 2 ^ 31 ≤ (wake - s.wakeOf u).toNat) ∧
        s.enterDelayList t ticks = State.setTask t { s.task t with wakeTick := some wake }
          { s with delayList := before ++ t :: after }) ∧
    (∀ counter rest, NextRequest s Request.isDelayTick 0 (.tickDelay counter) rest →
      let due := s.delayList.filter fun u => (counter - s.wakeOf u).toNat < 2 ^ 31
      let s1 := due.foldl
        (fun x u => x.wake u (if (x.task u).waitChannel = none then .elapsed else .timeout)) { s with requests := rest }
      exec .delayListExpiry s = .next (s1.request (s1.readyRequests due)))

/-! ### Self commands -/

/-- A self command on a RUNNING PU (R126, R127, R131 to R137): the task the choice returns is RUNNING at once and delivered,
or the PU is IDLE. A WAIT that a unit satisfies continues with SIGNALLED; otherwise WAIT, DELAY and FINISH take their task to
its list or to DORMANT. A YIELD counts its task at the tail of its place: it continues where the choice returns it, and
enters that tail where it does not. -/
def Obligations.SelfCommandsOnARunningPu : Prop :=
  ∀ (p : Pu) (c : Captured) (s : State) (t : TaskId), (s.engine p).st = .running t →
    let stored (st : TaskState) : State := s.setTask t { s.task t with state := st, resumeWord := c.arg 0 }
    let next (s' : State) : Host.Outcome State Fault Refusal :=
      .next (State.deliver p (s'.unwind p none .none) none false [])
    (∀ (ch : ChannelId) (timeout : BitVec 32), Captures s p 24 c → (c.arg 1).toNat = ch.val →
      (c.arg 2).toNat = timeout.toNat → timeout.toNat ≤ 16777215 →
      let r := s.channel ch
      let gives : Prop := r.mode = .signal ∧ r.masked = false ∧ r.pendingCount ≠ 0
      let listed := (stored .waiting).enterWaiters ch t
      (gives → exec (.wait p) s = .next
        (((s.setChannel ch { r with pendingCount := r.pendingCount - 1 }).setTask t
          { s.task t with resumeWord := c.arg 0, waitResult := none }).respond p .done .continue false
            [low t.val, c.arg 0, low 1, low 0])) ∧
      (¬ gives → exec (.wait p) s = next (if timeout = 0 then listed else listed.enterDelayList t timeout))) ∧
    (∀ ticks : BitVec 32, Captures s p 25 c → (c.arg 1).toNat = ticks.toNat → 1 ≤ ticks.toNat →
      ticks.toNat ≤ 16777215 → exec (.delay p) s = next ((stored .waiting).enterDelayList t ticks)) ∧
    (Captures s p 26 c → exec (.finish p) s = next (s.setTask t
      { s.task t with state := .dormant, resumeWord := (s.task t).entryWord, waitResult := none })) ∧
    (Captures s p 23 c →
      let choice := (s.setTask t { s.task t with resumeWord := c.arg 0 }).unwind p none (.tail t)
      (choice.chosen = some t → exec (.yield p) s = .next
        ((choice.st.respond p .done .continue false [low t.val, c.arg 0, low 0, low 0]).request
          (choice.st.readyRequests choice.returned))) ∧
      (choice.chosen ≠ some t → exec (.yield p) s = .next
        (State.deliver p { choice with st := choice.st.makeReady t .tail } none false [t]))) ∧
    (∀ (choice : Choice) (why : Option SwitchReason) (sup : Bool) (entered : List TaskId),
      let ran : State := match choice.chosen with
        | some u => (choice.st.run p u).respond p .done .switched sup
            [low u.val, (choice.st.task u).resumeWord, low (waitResultCode (choice.st.task u).waitResult),
              low (switchReasonCode why)]
        | none => (choice.st.setEngine p { choice.st.engine p with st := .idle }).respond p .done .idle sup
            [low 255, 0, 0, low (switchReasonCode why)]
      State.deliver p choice why sup entered = ran.request (ran.readyRequests (entered ++ choice.returned)))

/-- A self command on a SWITCHING PU is that switch's handover (R59, R128, R129, R135): the claimed task, or the task of a
choice made at this decision, is delivered with the switch reason. It replaces a pending READY-head or DISPLACED, but for a
YIELD, which leaves DISPLACED pending; it is superseded by FREE, SUSPENDED and HELD, and its task then holds INTERRUPTED
unless it is FREE. A WAIT satisfied at once sends its task to the pending destination with SIGNALLED, unless that is FREE.
That a self command which gives up a push leaves a re-evaluation of the urgent queue outstanding is log 8, that the end of a
purge comes before the choice is log 29. -/
def Obligations.SelfCommandsOnASwitchingPu : Prop :=
  ∀ (p : Pu) (c : Captured) (s : State) (sw : Switch) (t : TaskId) (d : Dest), (s.engine p).st = .switching sw →
    sw.outgoing = some ⟨t, d⟩ →
    let finish (sup : Bool) (entered : List TaskId) (s' : State) : State :=
      State.deliver p (match sw.claimed with
        | some u => ⟨s', some u, [], false⟩
        | none => s'.unwind p none .none) (some sw.reason) sup entered
    let higher : Prop := d = .free ∨ d = .held ∨ ∃ why, d = .suspended why
    let superseded : State :=
      let told := if d = .free then s else s.setTask t { s.task t with waitResult := some .interrupted }
      finish true [] (told.sendOut p ⟨t, d⟩ (some (c.arg 0)))
    let stored (st : TaskState) : State := s.setTask t { s.task t with state := st, resumeWord := c.arg 0 }
    let replaced (s' : State) : State :=
      if d = .displaced then (finish false [] s').request [.urgent p .reEvaluation] else finish false [] s'
    (Captures s p 23 c →
      (higher → exec (.yield p) s = .next superseded) ∧
      (d = .displaced → exec (.yield p) s = .next (finish false [] (s.sendOut p ⟨t, d⟩ (some (c.arg 0))))) ∧
      (d = .readyHead → exec (.yield p) s = .next (finish false [t]
        ((s.setTask t { s.task t with resumeWord := c.arg 0 }).makeReady t .tail)))) ∧
    (∀ (ch : ChannelId) (timeout : BitVec 32), Captures s p 24 c → (c.arg 1).toNat = ch.val →
      (c.arg 2).toNat = timeout.toNat → timeout.toNat ≤ 16777215 →
      let r := s.channel ch
      let gives : Prop := r.mode = .signal ∧ r.masked = false ∧ r.pendingCount ≠ 0
      let listed := (stored .waiting).enterWaiters ch t
      (gives → d ≠ .free → exec (.wait p) s = .next (finish false (if d = .readyHead then [t] else [])
        (((s.setChannel ch { r with pendingCount := r.pendingCount - 1 }).setTask t
          { s.task t with waitResult := some .signalled }).sendOut p ⟨t, d⟩ (some (c.arg 0))))) ∧
      (¬ gives ∨ d = .free → higher → exec (.wait p) s = .next superseded) ∧
      (¬ gives → ¬ higher → exec (.wait p) s =
        .next (replaced (if timeout = 0 then listed else listed.enterDelayList t timeout)))) ∧
    (∀ ticks : BitVec 32, Captures s p 25 c → (c.arg 1).toNat = ticks.toNat → 1 ≤ ticks.toNat →
      ticks.toNat ≤ 16777215 →
      (higher → exec (.delay p) s = .next superseded) ∧
      (¬ higher → exec (.delay p) s = .next (replaced ((stored .waiting).enterDelayList t ticks)))) ∧
    (Captures s p 26 c →
      (higher → exec (.finish p) s = .next superseded) ∧
      (¬ higher → exec (.finish p) s = .next (replaced (s.setTask t
        { s.task t with state := .dormant, resumeWord := (s.task t).entryWord, waitResult := none }))))

/-! ### The Frame Unit -/

/-- CONFIGURE stores its four values, in STOPPED (R148). WRITE_WINDOW replaces one window of the standby bank, while no plan
switch is armed; its map word holds PU n's entry in byte n (R151, R202). ARM_PLAN_SWITCH sets the countdown, above 0 only
where the standby bank has a window (R153). -/
def Obligations.ConfigurationAndPlanAreWritten : Prop :=
  ∀ (p : Pu) (c : Captured) (s : State),
    (∀ mode : SyncMode, Issued s p 28 .supervisor c → 1 ≤ (c.arg 0).toNat → (c.arg 0).toNat ≤ 1000 →
      1 ≤ (c.arg 1).toNat → (c.arg 1).toNat ≤ 255 → (c.arg 2).toNat = mode.code → 1 ≤ (c.arg 3).toNat →
      (c.arg 3).toNat ≤ 65535 → s.frame.state = .stopped →
      exec (.configure p) s = .next (State.answer p [c.arg 0, c.arg 1, c.arg 2, c.arg 3]
        { s with frame := { s.frame with
          tickPeriod := (c.arg 0).setWidth 16, handoverLimit := (c.arg 1).setWidth 8, syncMode := mode
          gapLimit := (c.arg 3).setWidth 16 } })) ∧
    (∀ (i : WindowIndex) (map : Vector MapEntry 8), Issued s p 31 .supervisor c → (c.arg 0).toNat = i.val →
      1 ≤ (c.arg 1).toNat → (c.arg 1).toNat ≤ 65535 → (∀ n : Pu, bits (c.arg 2) (8 * n.val) 8 = (map[n]).code) →
      s.frame.countdown = 0 →
      let window : Window := ⟨(c.arg 1).setWidth 16, map⟩
      (s.frame.active = .a → exec (.writeWindow p) s = .next (State.answer p [low 1, low i.val]
        { s with frame := { s.frame with
          bankB := { s.frame.bankB with windows := put s.frame.bankB.windows i window } } })) ∧
      (s.frame.active = .b → exec (.writeWindow p) s = .next (State.answer p [low 0, low i.val]
        { s with frame := { s.frame with
          bankA := { s.frame.bankA with windows := put s.frame.bankA.windows i window } } }))) ∧
    (∀ n : BitVec 8, Issued s p 33 .supervisor c → (c.arg 0).toNat = n.toNat →
      n = 0 ∨ s.frame.standbyBank.count ≠ 0 →
      exec (.armPlanSwitch p) s =
        .next (State.answer p [low n.toNat] { s with frame := { s.frame with countdown := n } }))

/-- SET_PLAN_LENGTH (R152): refused by class, by a count above 24 and while a plan switch is armed; otherwise, in every frame
state, it sets the window count of the standby bank and nothing else, and answers the bank and its new count. That the count
is judged on the whole argument word is log 15. -/
def Obligations.SetPlanLengthWritesTheStandbyCount : Prop :=
  ∀ (p : Pu) (c : Captured) (s : State), Captures s p 32 c →
    (s.classPasses p .supervisor = false → exec (.setPlanLength p) s = .next (s.protectRefused p 32)) ∧
    (s.classPasses p .supervisor = true →
      (24 < (c.arg 0).toNat → exec (.setPlanLength p) s = .next (s.onlyAnswered p .refusedRange)) ∧
      ((c.arg 0).toNat ≤ 24 → s.frame.countdown ≠ 0 →
        exec (.setPlanLength p) s = .next (s.onlyAnswered p .refusedState)) ∧
      (∀ n : Fin 25, (c.arg 0).toNat = n.val → s.frame.countdown = 0 →
        (s.frame.active = .a → exec (.setPlanLength p) s = .next (State.answer p [low 1, low n.val]
          { s with frame := { s.frame with bankB := { s.frame.bankB with count := n } } })) ∧
        (s.frame.active = .b → exec (.setPlanLength p) s = .next (State.answer p [low 0, low n.val]
          { s with frame := { s.frame with bankA := { s.frame.bankA with count := n } } }))))

/-- A frame start (R157, R164): the countdown falls, and at 1 the banks exchange; the frame counter rises; window 0 of the
bank now active is in force. Re-evaluations follow for each PU whose entry differs, with its entry in the former window (R167),
or for every PU where no window was in force, with that entry absent; and the Budget Monitor gets the frame start
(two groups of requests, log 3). START_SCHEDULE takes one in FREE mode and becomes ARMED in SYNC (R156). -/
def Obligations.FrameStartBringsWindowZeroIntoForce : Prop :=
  ∀ (s : State),
    let f := s.frame
    let active : BankId := if f.countdown = 1 then (if f.active = .a then .b else .a) else f.active
    let bank : Bank := if active = .a then f.bankA else f.bankB
    let old : Window := f.activeBank.windows[f.windowIndex]
    let window : Window := bank.windows[0]
    let pus : List Pu := [0, 1, 2, 3, 4, 5, 6, 7]
    let reEvaluations : List Request :=
      if f.state = .framing ∨ f.state = .gap then
        (pus.filter fun q => old.map[q] ≠ window.map[q]).map fun q => .window q (some old.map[q])
      else pus.map fun q => .window q none
    s.frameStart =
      ((State.request reEvaluations { s with frame := { f with
          countdown := if f.countdown = 0 then 0 else f.countdown - 1, active := active
          frameCounter := f.frameCounter + 1, gapTicks := 0, state := .framing, windowIndex := 0
          ticksRemaining := window.length } }).request [.budgetFrameStart]) ∧
    (∀ p c, Issued s p 29 .supervisor c → f.state = .stopped → f.tickPeriod ≠ 0 →
      f.activeBank.count ≠ 0 ∨ (f.syncMode = .free ∧ f.countdown = 1 ∧ f.standbyBank.count ≠ 0) →
      (f.syncMode = .free → exec (.startSchedule p) s = .next (s.frameStart.answer p [low 2])) ∧
      (f.syncMode = .sync → exec (.startSchedule p) s =
        .next (State.answer p [low 1] { s with frame := { f with state := .armed } })))

/-- STOP_SCHEDULE (R162, R163): the frame is STOPPED; every RUNNING PU is SWITCHING with reason STOP and destination
READY-head; a SWITCHING PU loses its claim and a pending push and keeps the rest; their stacks are empty and what they gave
up is READY; the other PUs, the ports but for the response, the channels and the Delay List are as they were. The engines
take the request one by one, in an order the manual leaves open (log 6): a claim returns to the head of its place, then the
stack, top first, and a place request or an urgent arrival follows for each task returned, in that order. -/
def Obligations.StopScheduleSwitchesEveryPuOut : Prop :=
  (∀ (p : Pu) (c : Captured) (s : State), Issued s p 30 .supervisor c → s.frame.state ≠ .stopped →
    ∃ t, exec (.stopSchedule p) s = .next t ∧
      t.frame = { s.frame with state := .stopped, windowIndex := 0, ticksRemaining := 0, gapTicks := 0 } ∧
      t.ports = (s.answer p [low s.frame.state.code]).ports ∧ t.channels = s.channels ∧ t.delayList = s.delayList ∧
      t.conds = s.conds ∧
      ∀ q,
        let limit := s.frame.handoverLimit
        (∀ u, (s.engine q).st = .running u →
          t.engine q = { s.engine q with
            st := .switching ⟨.stop, some ⟨u, .readyHead⟩, none, limit, limit⟩, stack := []
            swreqRises := (s.engine q).swreqRises + 1 }) ∧
        (∀ sw, (s.engine q).st = .switching sw →
          t.engine q = { s.engine q with
            stack := []
            st := .switching { sw with
              claimed := none
              outgoing := sw.outgoing.map fun o => if o.dest = .displaced then ⟨o.task, .readyHead⟩ else o } }) ∧
        ((s.engine q).working = false → t.engine q = s.engine q) ∧
        (∀ u, (s.engine q).working = true → u ∈ (s.engine q).stack ∨ (s.engine q).claimedTask = some u →
          (t.task u).state = .ready)) ∧
  (∀ (p : Pu) (c : Captured) (s : State), Issued s p 30 .supervisor c → s.frame.state ≠ .stopped →
    ∃ order : List Pu, order.Nodup ∧ (∀ q, q ∈ order ↔ (s.engine q).working = true) ∧
      exec (.stopSchedule p) s = .next ((order.foldl (fun (x : State) q => x.stopEngine q)
        { s with
          frame := { s.frame with state := .stopped, windowIndex := 0, ticksRemaining := 0, gapTicks := 0 }
          freeIndex := s.freeIndex + 1 }).answer p [low s.frame.state.code])) ∧
  (∀ (x : State) (q : Pu),
    let limit := x.frame.handoverLimit
    let followed (x' : State) (returned : List TaskId) : State := x'.request (x'.readyRequests returned)
    (∀ u, (x.engine q).st = .running u → x.stopEngine q =
      followed ((x.setEngine q
        { x.engine q with
          st := .switching ⟨.stop, some ⟨u, .readyHead⟩, none, limit, limit⟩
          swreqRises := (x.engine q).swreqRises + 1 }).emptyStack q)
        (x.engine q).stack) ∧
    (∀ sw, (x.engine q).st = .switching sw →
      let back := x.returnClaim q
      let kept := if sw.outgoing.map Outgoing.dest = some .displaced
        then back.modSwitch q fun w => { w with outgoing := w.outgoing.map fun o => ⟨o.task, .readyHead⟩ }
        else back
      x.stopEngine q = followed (kept.emptyStack q) (sw.claimed.toList ++ (x.engine q).stack)) ∧
    ((x.engine q).working = false → x.stopEngine q = x))

/-- A tick the Frame Unit takes (R149, R158, R159): in FRAMING ticks remaining falls, and at 0 the next window starts, handing
on the re-evaluation of each PU whose entry differs with its entry in the former window (R164, R167), or a frame start is
taken, or in SYNC mode the GAP begins; in GAP gap ticks rise, and at the limit SYNC_LOST is latched and a frame start is
taken. WINDOW_END takes it outside GAP, GAP_LIMIT in GAP (log 4). A rise of FSYNC in SYNC mode starts the
frame from ARMED and GAP, and is an early sync in FRAMING; it does nothing in STOPPED, in FREE mode, or at a fall (R160). -/
def Obligations.TicksAndSyncEdgesDriveTheFrame : Prop :=
  ∀ (s : State),
    let f := s.frame
    let holding (g : FrameUnit) : State := { s with frame := g }
    let last : Prop := f.activeBank.count.val ≤ f.windowIndex.val + 1
    (f.state = .stopped ∨ f.state = .armed → s.takeFrameTick = s) ∧
    (f.state = .framing →
      (f.ticksRemaining ≠ 1 → s.takeFrameTick = holding { f with ticksRemaining := f.ticksRemaining - 1 }) ∧
      (∀ i : WindowIndex, f.ticksRemaining = 1 → i.val = f.windowIndex.val + 1 → i.val < f.activeBank.count.val →
        let window : Window := f.activeBank.windows[i]
        let old : Window := f.activeBank.windows[f.windowIndex]
        s.takeFrameTick = State.request
          (((([0, 1, 2, 3, 4, 5, 6, 7] : List Pu).filter fun q => old.map[q] ≠ window.map[q])).map
            fun q => .window q (some old.map[q]))
          (holding { f with windowIndex := i, ticksRemaining := window.length })) ∧
      (f.ticksRemaining = 1 → last → f.syncMode = .free →
        s.takeFrameTick = (holding { f with ticksRemaining := 0 }).frameStart) ∧
      (f.ticksRemaining = 1 → last → f.syncMode = .sync →
        s.takeFrameTick = holding { f with ticksRemaining := 0, state := .gap, gapTicks := 0 })) ∧
    (f.state = .gap →
      (f.gapTicks + 1 ≠ f.gapLimit → s.takeFrameTick = holding { f with gapTicks := f.gapTicks + 1 }) ∧
      (f.gapTicks + 1 = f.gapLimit →
        s.takeFrameTick = ((holding { f with gapTicks := f.gapTicks + 1 }).latch .syncLost).frameStart)) ∧
    (∀ rest, NextRequest s (fun r => r = .tickFrame) 0 .tickFrame rest →
      let s0 : State := { s with requests := rest }
      (f.state ≠ .gap → exec .windowEnd s = .next s0.takeFrameTick ∧ exec .gapLimit s = .next s) ∧
      (f.state = .gap → exec .gapLimit s = .next s0.takeFrameTick ∧ exec .windowEnd s = .next s)) ∧
    (∀ level : Bool,
      let s1 : State := { s with pins := { s.pins with fsync := level } }
      let edge : Prop := s.pins.resetLow = false ∧ s.pins.fsync = false ∧ level = true ∧ f.syncMode = .sync
      (¬ edge ∨ f.state = .stopped → exec (.fsyncEdge level) s = .next s1) ∧
      (edge → f.state = .armed ∨ f.state = .gap → exec (.fsyncEdge level) s = .next s1.frameStart) ∧
      (edge → f.state = .framing → exec (.fsyncEdge level) s = .next
        (State.latch .earlySync { s1 with frame := { f with earlySync := satInc f.earlySync } }).frameStart))

/-- TICK (R149): with a tick period of 0 there is none; otherwise the counter advances by one and the tick is handed to the
Frame Unit, the Delay List and the charge of each PU. A part that is held, or whose owner ends a window or a gap, releases an
entry or acts on a limit, is left outstanding for its own row; any other is taken with the tick (log 4). -/
def Obligations.TickReachesItsOwners : Prop :=
  ∀ (s : State) (held : List TickPart),
    let parts : List TickPart := [.frame, .delay, .charge 0, .charge 1, .charge 2, .charge 3, .charge 4, .charge 5,
      .charge 6, .charge 7]
    (s.pins.resetLow = false → s.frame.tickPeriod = 0 → exec (.tick held) s = .next s) ∧
    (s.pins.resetLow = false → s.frame.tickPeriod ≠ 0 → exec (.tick held) s = .next
      (parts.foldl (fun x part => x.deliverTick held part)
        { s with frame := { s.frame with tickCounter := s.frame.tickCounter + 1 } })) ∧
    (.frame ∈ held ∨ (s.frame.state = .framing ∧ s.frame.ticksRemaining = 1) ∨
        (s.frame.state = .gap ∧ s.frame.gapTicks + 1 = s.frame.gapLimit) →
      s.deliverTick held .frame = s.request [.tickFrame]) ∧
    (¬ (.frame ∈ held ∨ (s.frame.state = .framing ∧ s.frame.ticksRemaining = 1) ∨
        (s.frame.state = .gap ∧ s.frame.gapTicks + 1 = s.frame.gapLimit)) →
      s.deliverTick held .frame = s.takeFrameTick) ∧
    (let due : Prop := ∃ t ∈ s.delayList, (s.frame.tickCounter - s.wakeOf t).toNat < 2 ^ 31;
      (.delay ∈ held ∨ due → s.deliverTick held .delay = s.request [.tickDelay s.frame.tickCounter]) ∧
      (¬ (.delay ∈ held ∨ due) → s.deliverTick held .delay = s)) ∧
    (∀ q : Pu,
      (.charge q ∈ held ∨ s.chargeActs q = true → s.deliverTick held (.charge q) = s.request [.charge q]) ∧
      (¬ (.charge q ∈ held ∨ s.chargeActs q = true) → s.deliverTick held (.charge q) = s.charge q))

/-! ### Budgets -/

/-- The charge of a PU (R173, R175 to R178): the running task's used count rises, up to 65,535; at its warn level the warn
flag is set and BUDGET_WARN latched, at its limit the mark is set, the overrun count raised, BUDGET_LIMIT latched and the
action taken, each at most once until the flag or the mark is cleared; without a running task nothing changes. -/
def Obligations.ChargeTestsTheThresholds : Prop :=
  ∀ (s : State) (p : Pu),
    ((s.engine p).runningTask = none → s.charge p = s) ∧
    (∀ t, (s.engine p).runningTask = some t →
      let r := s.task t
      let used : BitVec 16 := if r.budgetUsed = 65535 then 65535 else r.budgetUsed + 1
      let warns : Bool := r.budgetWarn ≠ 0 ∧ r.budgetWarn ≤ used ∧ r.warnFlag = false
      let limits : Bool := r.budgetLimit ≠ 0 ∧ r.budgetLimit ≤ used ∧ r.limitMark = false
      let s1 := s.setTask t
        { r with
          budgetUsed := used, warnFlag := r.warnFlag || warns, limitMark := r.limitMark || limits
          overrunCount := if limits then satInc r.overrunCount else r.overrunCount }
      let s2 := if warns then s1.latch .budgetWarn else s1
      let s3 := if limits then s2.latch .budgetLimit else s2
      (limits = false → s.charge p = s3) ∧
      (limits = true →
        (r.budgetAction = .note → s.charge p = s3) ∧
        (r.budgetAction = .hold → s.charge p = s3.askOut p .budget .held) ∧
        (r.budgetAction = .stop → s.charge p = s3.askOut p .budget (.suspended .budget)) ∧
        (r.budgetAction = .halt → s.charge p = s3.request [.halt r.partition t])) ∧
      (s.chargeActs p = limits)) ∧
    (∀ rest, NextRequest s (fun r => r = .charge p) 0 (.charge p) rest →
      exec (.budgetLimitReached p) s = .next (State.charge p { s with requests := rest }))

/-- SET_BUDGET replaces limit, warn and action, clears the warn flag, the mark and the overrun count, keeps the used count
and answers it (R183). A frame start the Budget Monitor takes renews every allowance and releases every HELD task to the tail
of its place in ascending id order, their requests following (R180). Which words hold the limit, the warn level and the
action is log 16. -/
def Obligations.BudgetsAreSetAndRenewed : Prop :=
  ∀ (s : State),
    (∀ p c t (action : BudgetAction), Issued s p 35 .manager c → OnTask s p c t → (c.arg 1).toNat ≤ 65535 →
      (c.arg 2).toNat ≤ 65535 → (c.arg 1).toNat = 0 ∨ (c.arg 2).toNat ≤ (c.arg 1).toNat →
      (c.arg 3).toNat = action.code → (s.task t).state ≠ .free →
      exec (.setBudget p) s = .next ((s.setTask t
        { s.task t with
          budgetLimit := (c.arg 1).setWidth 16, budgetWarn := (c.arg 2).setWidth 16, budgetAction := action
          warnFlag := false, limitMark := false, overrunCount := 0 }).answer p
        [low t.val, low (s.task t).state.code, low (s.task t).budgetUsed.toNat])) ∧
    (∀ rest, NextRequest s (fun r => r = .budgetFrameStart) 0 .budgetFrameStart rest →
      let heldTasks := allTasks.filter fun t => (s.task t).state = .held
      let renewed : State := { s with
        requests := rest
        tasks := s.tasks.map fun r => { r with budgetUsed := 0, warnFlag := false, limitMark := false } }
      let s1 := heldTasks.foldl (fun x t => x.makeReady t .tail) renewed
      exec .budgetFrameStart s = .next (s1.request (s1.readyRequests heldTasks)))

/-! ### Conditions and resets -/

/-- CLEAR_CONDITIONS (R198): of class SUPERVISOR; it clears the flags of its set, bits above the seventeen ignored, keeps the
others, and answers the word that is left; ATTN follows. A set without a flag changes nothing but the response. -/
def Obligations.ClearConditionsClearsTheNamedFlags : Prop :=
  ∀ (p : Pu) (c : Captured) (s : State), Captures s p 37 c →
    (s.classPasses p .supervisor = false → exec (.clearConditions p) s = .next (s.protectRefused p 37)) ∧
    (s.classPasses p .supervisor = true → ∃ t, exec (.clearConditions p) s = .next t ∧
      { t with ports := s.ports, conds := s.conds } = s ∧ t.conds.enable = s.conds.enable ∧
      (∀ i : Fin 17, t.conds.word.getLsbD i.val = (s.conds.word.getLsbD i.val && !(c.arg 0).getLsbD i.val)) ∧
      t.ports = (s.answer p [t.conds.word.setWidth 64]).ports ∧
      (t.attn = true ↔ ∃ i : Fin 17, t.conds.word.getLsbD i.val = true ∧ t.conds.enable.getLsbD i.val = true) ∧
      ((∀ i : Fin 17, (c.arg 0).getLsbD i.val = false) → t = s.answer p [s.conds.word.setWidth 64]))

/-- SET_ATTN_ENABLE (R199): of class SUPERVISOR; it replaces the enable mask with its set, bits above the seventeen ignored
and read as 0, keeps the condition word, and answers the word and the new mask; ATTN follows. -/
def Obligations.SetAttnEnableReplacesTheMask : Prop :=
  ∀ (p : Pu) (c : Captured) (s : State), Captures s p 38 c →
    (s.classPasses p .supervisor = false → exec (.setAttnEnable p) s = .next (s.protectRefused p 38)) ∧
    (s.classPasses p .supervisor = true → ∃ t, exec (.setAttnEnable p) s = .next t ∧
      { t with ports := s.ports, conds := s.conds } = s ∧ t.conds.word = s.conds.word ∧
      (∀ i : Fin 17, t.conds.enable.getLsbD i.val = (c.arg 0).getLsbD i.val) ∧
      t.ports = (s.answer p [s.conds.word.setWidth 64, t.conds.enable.setWidth 64]).ports ∧
      (∀ n, 17 ≤ n → (t.conds.enable.setWidth 64).getLsbD n = false) ∧
      (t.attn = true ↔ ∃ i : Fin 17, t.conds.word.getLsbD i.val = true ∧ t.conds.enable.getLsbD i.val = true))

/-- ATTN (R197) is asserted exactly while some flag is both set and enabled: a latch of an enabled flag asserts it, a latch
of one that is not enabled leaves it, and it is deasserted after a hard reset and after SYSTEM_RESET. -/
def Obligations.AttnFollowsTheEnabledFlags : Prop :=
  ∀ s : State,
    (s.attn = true ↔ ∃ i : Fin 17, s.conds.word.getLsbD i.val = true ∧ s.conds.enable.getLsbD i.val = true) ∧
    (∀ flag : Cond, (s.conds.enable.getLsbD flag.bit = true → (s.latch flag).attn = true) ∧
      (s.conds.enable.getLsbD flag.bit = false → (s.latch flag).attn = s.attn)) ∧
    (∀ i t, exec i s = .next t →
      (t.attn = true ↔ ∃ n : Fin 17, t.conds.word.getLsbD n.val = true ∧ t.conds.enable.getLsbD n.val = true)) ∧
    State.reset.attn = false ∧ (∃ t, exec .hardReset s = .next t ∧ t.attn = false) ∧
    ∀ p c, Issued s p 39 .supervisor c → ∃ t, exec (.systemReset p) s = .next t ∧ t.attn = false

/-- SYSTEM_RESET (R201 and the rules it names): every task FREE, every queue, stack and list empty, no partition halted or
purging, every engine that took part IDLE and the others OFFLINE with counts 0 (that of SWREQ's rises is the model's, log 19),
the channels' units and the frame position cleared and their configuration kept, the issuing port DONE, every other BUSY port
ABORTED, overrun flags, conditions and violations cleared, the enable mask kept. Requests not yet taken are dropped (log 10); an ABORTED port's overrun flag, which
R191 keeps and R201 (d) clears, is cleared (log 31). -/
def Obligations.SystemResetIsAWarmReset : Prop :=
  ∀ (p : Pu) (c : Captured) (s : State), Issued s p 39 .supervisor c → ∃ t, exec (.systemReset p) s = .next t ∧
    (∀ u, t.task u = TaskRecord.freeRecord) ∧ (∀ k, t.part k = ⟨none, none, 0, 0⟩) ∧
    (∀ k q, t.readyQueue k q = []) ∧ (∀ q, t.urgentQueue q = []) ∧ t.delayList = [] ∧ t.requests = [] ∧
    (∀ q, t.engine q = ⟨if (s.engine q).st = .offline ∨ (s.engine q).st = .faulted then .offline else .idle, [], 0, 0, 0⟩) ∧
    (∀ ch, t.channel ch = { s.channel ch with
      pendingCount := 0, saturated := false, arrivalCount := 0, waiters := [] }) ∧
    t.frame = { s.frame with
      countdown := 0, state := .stopped, windowIndex := 0, ticksRemaining := 0, gapTicks := 0, frameCounter := 0
      earlySync := 0 } ∧
    t.port p = { s.port p with
      state := .done, status := some .done, outcome := .none, superseded := false, res := Vector.replicate 6 0
      overrun := false } ∧
    (∀ q, q ≠ p → (∀ x, (s.port q).state ≠ .busy x) → t.port q = { s.port q with overrun := false }) ∧
    (∀ q x, q ≠ p → (s.port q).state = .busy x → t.port q = { s.port q with
      state := .done, status := some .aborted, outcome := .none, superseded := false, res := Vector.replicate 6 0
      overrun := false }) ∧
    t.conds = ⟨0, s.conds.enable⟩ ∧ t.violation = ⟨0, none, 0, none⟩ ∧ t.pins = s.pins

/-- HARD_RESET leaves the reset state, RESET# low; while it is low no row but HARD_RESET, RESET_RISE and the two line rows
changes anything, and those two note their level alone; RESET_RISE takes the present levels as the former ones, and changes
nothing while RESET# is high (R187, R206, log 11). Requests not yet taken are dropped (log 10); the queue of commands and the
free index, the model's own, are kept (log 23). -/
def Obligations.HardResetHoldsUntilTheRise : Prop :=
  ∀ s : State,
    exec .hardReset s = .next { State.reset with
      pins := { s.pins with resetLow := true }, pending := s.pending, freeIndex := s.freeIndex } ∧
    (∀ events fsync,
      (s.pins.resetLow = true → exec (.resetRise events fsync) s = .next { s with pins := ⟨false, events, fsync⟩ }) ∧
      (s.pins.resetLow = false → exec (.resetRise events fsync) s = .next s)) ∧
    (s.pins.resetLow = true →
      (∀ n level, exec (.eventLineEdge n level) s =
        .next { s with pins := { s.pins with events := withLevel n level s.pins.events } }) ∧
      (∀ level, exec (.fsyncEdge level) s = .next { s with pins := { s.pins with fsync := level } }) ∧
      ∀ i, i ≠ .hardReset → (∀ events fsync, i ≠ .resetRise events fsync) → (∀ n level, i ≠ .eventLineEdge n level) →
        (∀ level, i ≠ .fsyncEdge level) → exec i s = .next s)

/-! ### What each row leaves alone -/

/-- Every row but those named leaves alone: the Frame Unit; what BIND, MASK and UNMASK set on each channel; every halt with
its reason; the enable mask; RESET# and the former levels of the lines. -/
def Obligations.OnlyTheirRowsChangeTheirState : Prop :=
  ∀ (i : Instr) (s t : State), exec i s = .next t →
    (framing i = false → t.frame = s.frame) ∧
    (channelSetup i = false → ∀ ch, (t.channel ch).config = (s.channel ch).config) ∧
    (halting i = false → ∀ k, (t.part k).halted = (s.part k).halted) ∧
    ((∀ p, i ≠ .setAttnEnable p) → i ≠ .hardReset → t.conds.enable = s.conds.enable) ∧
    (onPins i = false → t.pins = s.pins)

/-! ### Invariants -/

/-- The three laws hold at reset. -/
def Obligations.LawsHoldAtReset : Prop := State.reset.CountsLaw ∧ State.reset.ChannelLaw ∧ State.reset.PlanLaw

/-- Every step keeps the counts law: each partition's member count and ready count are those of its tasks (R29, R30). -/
def Obligations.EveryStepKeepsTheCounts : Prop := ∀ s t : State, step s = .next t → s.CountsLaw → t.CountsLaw

/-- Every step keeps the channel law: a SOFT channel's edge is RISING, a LINE channel's post rights are empty, an unmasked
PULSE channel holds no unit (R103, R108). -/
def Obligations.EveryStepKeepsTheChannelLaw : Prop := ∀ s t : State, step s = .next t → s.ChannelLaw → t.ChannelLaw

/-- Every step keeps the plan law: windows are never empty, a running schedule has a window in force that is one of its
frame, an armed switch has a standby plan, and the frame position is 0 where it means nothing (R147, R150, R155, R156). -/
def Obligations.EveryStepKeepsThePlanLaw : Prop := ∀ s t : State, step s = .next t → s.PlanLaw → t.PlanLaw
end

