-- ==== Sys2Proof/Laws/State.lean ====
section
/-!
SUPPORT. One lemma per field and update of the state, and what each table read gives after a write: no later proof unfolds
a record update.
-/

namespace Sys2Proof.Machine

/-! ### Tables -/

@[simp] theorem get_put_same {α : Type} {n : Nat} (v : Vector α n) (i : Fin n) (x : α) : (put v i x)[i.val] = x := by
  simp [put]

theorem get_put {α : Type} {n : Nat} (v : Vector α n) (i j : Fin n) (x : α) :
    (put v i x)[j.val] = if i = j then x else v[j.val] := by
  simp [put, Vector.getElem_set, Fin.ext_iff]

theorem get_put_other {α : Type} {n : Nat} (v : Vector α n) {i j : Fin n} (x : α) (h : i ≠ j) :
    (put v i x)[j.val] = v[j.val] := by
  simp [get_put, h]

theorem put_get {α : Type} {n : Nat} (v : Vector α n) (i : Fin n) : put v i v[i.val] = v := by
  simp [put]

theorem put_put {α : Type} {n : Nat} (v : Vector α n) (i : Fin n) (x y : α) : put (put v i x) i y = put v i y := by
  simp [put]

/-! ### Derived updates are primitive ones -/

section
variable (s : State)

@[simp] theorem State.modTask_eq (t : TaskId) (f : TaskRecord → TaskRecord) :
    s.modTask t f = s.setTask t (f (s.task t)) := rfl
@[simp] theorem State.freeTask_eq (t : TaskId) : s.freeTask t = s.setTask t .freeRecord := rfl
@[simp] theorem State.suspendAs_eq (t : TaskId) (why : StopReason) :
    s.suspendAs t why = s.setTask t { s.task t with state := .suspended, stopReason := some why } := rfl
@[simp] theorem State.modEngine_eq (p : Pu) (f : Engine → Engine) :
    s.modEngine p f = s.setEngine p (f (s.engine p)) := rfl
@[simp] theorem State.setEngineState_eq (p : Pu) (st : EngineState) :
    s.setEngineState p st = s.setEngine p { s.engine p with st := st } := rfl
@[simp] theorem State.setStack_eq (p : Pu) (l : List TaskId) :
    s.setStack p l = s.setEngine p { s.engine p with stack := l } := rfl
@[simp] theorem State.modChannel_eq (c : ChannelId) (f : Channel → Channel) :
    s.modChannel c f = s.setChannel c (f (s.channel c)) := rfl
@[simp] theorem State.modPort_eq (p : Pu) (f : Port → Port) : s.modPort p f = s.setPort p (f (s.port p)) := rfl
@[simp] theorem State.respond_eq (p : Pu) (st : Status) (oc : OutcomeCode) (sup : Bool) (res : List Word) :
    s.respond p st oc sup res = s.setPort p ((s.port p).answered st oc sup res) := rfl
@[simp] theorem State.answer_eq (p : Pu) (res : List Word) :
    s.answer p res = s.setPort p ((s.port p).answered .done .none false res) := rfl
@[simp] theorem State.answerDeferred_eq (p : Pu) (res : List Word) :
    s.answerDeferred p res = s.setPort p ((s.port p).answered .done .deferred false res) := rfl
@[simp] theorem State.takeClaim_none (p : Pu) : s.takeClaim p none = s := rfl
@[simp] theorem State.takeClaim_some (p : Pu) (t : TaskId) : s.takeClaim p (some t) = s.claimFor p t := rfl
@[simp] theorem State.request_nil : s.request [] = s := rfl

end

/-! ### Fields -/

section
variable (s : State) (k : Partition) (r : PartitionRecord)

@[simp] theorem State.setPart_tasks : (s.setPart k r).tasks = s.tasks := rfl
@[simp] theorem State.setPart_ready : (s.setPart k r).ready = s.ready := rfl
@[simp] theorem State.setPart_urgent : (s.setPart k r).urgent = s.urgent := rfl
@[simp] theorem State.setPart_engines : (s.setPart k r).engines = s.engines := rfl
@[simp] theorem State.setPart_channels : (s.setPart k r).channels = s.channels := rfl
@[simp] theorem State.setPart_delayList : (s.setPart k r).delayList = s.delayList := rfl
@[simp] theorem State.setPart_frame : (s.setPart k r).frame = s.frame := rfl
@[simp] theorem State.setPart_ports : (s.setPart k r).ports = s.ports := rfl
@[simp] theorem State.setPart_violation : (s.setPart k r).violation = s.violation := rfl
@[simp] theorem State.setPart_conds : (s.setPart k r).conds = s.conds := rfl
@[simp] theorem State.setPart_pins : (s.setPart k r).pins = s.pins := rfl
@[simp] theorem State.setPart_requests : (s.setPart k r).requests = s.requests := rfl
@[simp] theorem State.setPart_pending : (s.setPart k r).pending = s.pending := rfl
@[simp] theorem State.setPart_freeIndex : (s.setPart k r).freeIndex = s.freeIndex := rfl

end

section
variable (s : State) (t : TaskId) (r : TaskRecord)

@[simp] theorem State.setTask_ready : (s.setTask t r).ready = s.ready := rfl
@[simp] theorem State.setTask_urgent : (s.setTask t r).urgent = s.urgent := rfl
@[simp] theorem State.setTask_engines : (s.setTask t r).engines = s.engines := rfl
@[simp] theorem State.setTask_channels : (s.setTask t r).channels = s.channels := rfl
@[simp] theorem State.setTask_delayList : (s.setTask t r).delayList = s.delayList := rfl
@[simp] theorem State.setTask_frame : (s.setTask t r).frame = s.frame := rfl
@[simp] theorem State.setTask_ports : (s.setTask t r).ports = s.ports := rfl
@[simp] theorem State.setTask_violation : (s.setTask t r).violation = s.violation := rfl
@[simp] theorem State.setTask_conds : (s.setTask t r).conds = s.conds := rfl
@[simp] theorem State.setTask_pins : (s.setTask t r).pins = s.pins := rfl
@[simp] theorem State.setTask_requests : (s.setTask t r).requests = s.requests := rfl
@[simp] theorem State.setTask_pending : (s.setTask t r).pending = s.pending := rfl
@[simp] theorem State.setTask_freeIndex : (s.setTask t r).freeIndex = s.freeIndex := rfl

end

section
variable (s : State) (k : Partition) (q : Priority) (l : List TaskId)

@[simp] theorem State.setReadyQueue_tasks : (s.setReadyQueue k q l).tasks = s.tasks := rfl
@[simp] theorem State.setReadyQueue_partitions : (s.setReadyQueue k q l).partitions = s.partitions := rfl
@[simp] theorem State.setReadyQueue_urgent : (s.setReadyQueue k q l).urgent = s.urgent := rfl
@[simp] theorem State.setReadyQueue_engines : (s.setReadyQueue k q l).engines = s.engines := rfl
@[simp] theorem State.setReadyQueue_channels : (s.setReadyQueue k q l).channels = s.channels := rfl
@[simp] theorem State.setReadyQueue_delayList : (s.setReadyQueue k q l).delayList = s.delayList := rfl
@[simp] theorem State.setReadyQueue_frame : (s.setReadyQueue k q l).frame = s.frame := rfl
@[simp] theorem State.setReadyQueue_ports : (s.setReadyQueue k q l).ports = s.ports := rfl
@[simp] theorem State.setReadyQueue_violation : (s.setReadyQueue k q l).violation = s.violation := rfl
@[simp] theorem State.setReadyQueue_conds : (s.setReadyQueue k q l).conds = s.conds := rfl
@[simp] theorem State.setReadyQueue_pins : (s.setReadyQueue k q l).pins = s.pins := rfl
@[simp] theorem State.setReadyQueue_requests : (s.setReadyQueue k q l).requests = s.requests := rfl
@[simp] theorem State.setReadyQueue_pending : (s.setReadyQueue k q l).pending = s.pending := rfl
@[simp] theorem State.setReadyQueue_freeIndex : (s.setReadyQueue k q l).freeIndex = s.freeIndex := rfl

end

section
variable (s : State) (p : Pu) (l : List TaskId)

@[simp] theorem State.setUrgentQueue_tasks : (s.setUrgentQueue p l).tasks = s.tasks := rfl
@[simp] theorem State.setUrgentQueue_partitions : (s.setUrgentQueue p l).partitions = s.partitions := rfl
@[simp] theorem State.setUrgentQueue_ready : (s.setUrgentQueue p l).ready = s.ready := rfl
@[simp] theorem State.setUrgentQueue_engines : (s.setUrgentQueue p l).engines = s.engines := rfl
@[simp] theorem State.setUrgentQueue_channels : (s.setUrgentQueue p l).channels = s.channels := rfl
@[simp] theorem State.setUrgentQueue_delayList : (s.setUrgentQueue p l).delayList = s.delayList := rfl
@[simp] theorem State.setUrgentQueue_frame : (s.setUrgentQueue p l).frame = s.frame := rfl
@[simp] theorem State.setUrgentQueue_ports : (s.setUrgentQueue p l).ports = s.ports := rfl
@[simp] theorem State.setUrgentQueue_violation : (s.setUrgentQueue p l).violation = s.violation := rfl
@[simp] theorem State.setUrgentQueue_conds : (s.setUrgentQueue p l).conds = s.conds := rfl
@[simp] theorem State.setUrgentQueue_pins : (s.setUrgentQueue p l).pins = s.pins := rfl
@[simp] theorem State.setUrgentQueue_requests : (s.setUrgentQueue p l).requests = s.requests := rfl
@[simp] theorem State.setUrgentQueue_pending : (s.setUrgentQueue p l).pending = s.pending := rfl
@[simp] theorem State.setUrgentQueue_freeIndex : (s.setUrgentQueue p l).freeIndex = s.freeIndex := rfl

end

section
variable (s : State) (p : Pu) (e : Engine)

@[simp] theorem State.setEngine_tasks : (s.setEngine p e).tasks = s.tasks := rfl
@[simp] theorem State.setEngine_partitions : (s.setEngine p e).partitions = s.partitions := rfl
@[simp] theorem State.setEngine_ready : (s.setEngine p e).ready = s.ready := rfl
@[simp] theorem State.setEngine_urgent : (s.setEngine p e).urgent = s.urgent := rfl
@[simp] theorem State.setEngine_channels : (s.setEngine p e).channels = s.channels := rfl
@[simp] theorem State.setEngine_delayList : (s.setEngine p e).delayList = s.delayList := rfl
@[simp] theorem State.setEngine_frame : (s.setEngine p e).frame = s.frame := rfl
@[simp] theorem State.setEngine_ports : (s.setEngine p e).ports = s.ports := rfl
@[simp] theorem State.setEngine_violation : (s.setEngine p e).violation = s.violation := rfl
@[simp] theorem State.setEngine_conds : (s.setEngine p e).conds = s.conds := rfl
@[simp] theorem State.setEngine_pins : (s.setEngine p e).pins = s.pins := rfl
@[simp] theorem State.setEngine_requests : (s.setEngine p e).requests = s.requests := rfl
@[simp] theorem State.setEngine_pending : (s.setEngine p e).pending = s.pending := rfl
@[simp] theorem State.setEngine_freeIndex : (s.setEngine p e).freeIndex = s.freeIndex := rfl

end

section
variable (s : State) (c : ChannelId) (r : Channel)

@[simp] theorem State.setChannel_tasks : (s.setChannel c r).tasks = s.tasks := rfl
@[simp] theorem State.setChannel_partitions : (s.setChannel c r).partitions = s.partitions := rfl
@[simp] theorem State.setChannel_ready : (s.setChannel c r).ready = s.ready := rfl
@[simp] theorem State.setChannel_urgent : (s.setChannel c r).urgent = s.urgent := rfl
@[simp] theorem State.setChannel_engines : (s.setChannel c r).engines = s.engines := rfl
@[simp] theorem State.setChannel_delayList : (s.setChannel c r).delayList = s.delayList := rfl
@[simp] theorem State.setChannel_frame : (s.setChannel c r).frame = s.frame := rfl
@[simp] theorem State.setChannel_ports : (s.setChannel c r).ports = s.ports := rfl
@[simp] theorem State.setChannel_violation : (s.setChannel c r).violation = s.violation := rfl
@[simp] theorem State.setChannel_conds : (s.setChannel c r).conds = s.conds := rfl
@[simp] theorem State.setChannel_pins : (s.setChannel c r).pins = s.pins := rfl
@[simp] theorem State.setChannel_requests : (s.setChannel c r).requests = s.requests := rfl
@[simp] theorem State.setChannel_pending : (s.setChannel c r).pending = s.pending := rfl
@[simp] theorem State.setChannel_freeIndex : (s.setChannel c r).freeIndex = s.freeIndex := rfl

end

section
variable (s : State) (p : Pu) (r : Port)

@[simp] theorem State.setPort_tasks : (s.setPort p r).tasks = s.tasks := rfl
@[simp] theorem State.setPort_partitions : (s.setPort p r).partitions = s.partitions := rfl
@[simp] theorem State.setPort_ready : (s.setPort p r).ready = s.ready := rfl
@[simp] theorem State.setPort_urgent : (s.setPort p r).urgent = s.urgent := rfl
@[simp] theorem State.setPort_engines : (s.setPort p r).engines = s.engines := rfl
@[simp] theorem State.setPort_channels : (s.setPort p r).channels = s.channels := rfl
@[simp] theorem State.setPort_delayList : (s.setPort p r).delayList = s.delayList := rfl
@[simp] theorem State.setPort_frame : (s.setPort p r).frame = s.frame := rfl
@[simp] theorem State.setPort_violation : (s.setPort p r).violation = s.violation := rfl
@[simp] theorem State.setPort_conds : (s.setPort p r).conds = s.conds := rfl
@[simp] theorem State.setPort_pins : (s.setPort p r).pins = s.pins := rfl
@[simp] theorem State.setPort_requests : (s.setPort p r).requests = s.requests := rfl
@[simp] theorem State.setPort_pending : (s.setPort p r).pending = s.pending := rfl
@[simp] theorem State.setPort_freeIndex : (s.setPort p r).freeIndex = s.freeIndex := rfl

end

section
variable (s : State) (c : Cond)

@[simp] theorem State.latch_tasks : (s.latch c).tasks = s.tasks := rfl
@[simp] theorem State.latch_partitions : (s.latch c).partitions = s.partitions := rfl
@[simp] theorem State.latch_ready : (s.latch c).ready = s.ready := rfl
@[simp] theorem State.latch_urgent : (s.latch c).urgent = s.urgent := rfl
@[simp] theorem State.latch_engines : (s.latch c).engines = s.engines := rfl
@[simp] theorem State.latch_channels : (s.latch c).channels = s.channels := rfl
@[simp] theorem State.latch_delayList : (s.latch c).delayList = s.delayList := rfl
@[simp] theorem State.latch_frame : (s.latch c).frame = s.frame := rfl
@[simp] theorem State.latch_ports : (s.latch c).ports = s.ports := rfl
@[simp] theorem State.latch_violation : (s.latch c).violation = s.violation := rfl
@[simp] theorem State.latch_pins : (s.latch c).pins = s.pins := rfl
@[simp] theorem State.latch_requests : (s.latch c).requests = s.requests := rfl
@[simp] theorem State.latch_pending : (s.latch c).pending = s.pending := rfl
@[simp] theorem State.latch_freeIndex : (s.latch c).freeIndex = s.freeIndex := rfl

end

section
variable (s : State) (rs : List Request)

@[simp] theorem State.request_tasks : (s.request rs).tasks = s.tasks := by cases rs <;> rfl
@[simp] theorem State.request_partitions : (s.request rs).partitions = s.partitions := by cases rs <;> rfl
@[simp] theorem State.request_ready : (s.request rs).ready = s.ready := by cases rs <;> rfl
@[simp] theorem State.request_urgent : (s.request rs).urgent = s.urgent := by cases rs <;> rfl
@[simp] theorem State.request_engines : (s.request rs).engines = s.engines := by cases rs <;> rfl
@[simp] theorem State.request_channels : (s.request rs).channels = s.channels := by cases rs <;> rfl
@[simp] theorem State.request_delayList : (s.request rs).delayList = s.delayList := by cases rs <;> rfl
@[simp] theorem State.request_frame : (s.request rs).frame = s.frame := by cases rs <;> rfl
@[simp] theorem State.request_ports : (s.request rs).ports = s.ports := by cases rs <;> rfl
@[simp] theorem State.request_violation : (s.request rs).violation = s.violation := by cases rs <;> rfl
@[simp] theorem State.request_conds : (s.request rs).conds = s.conds := by cases rs <;> rfl
@[simp] theorem State.request_pins : (s.request rs).pins = s.pins := by cases rs <;> rfl
@[simp] theorem State.request_pending : (s.request rs).pending = s.pending := by cases rs <;> rfl
@[simp] theorem State.request_freeIndex : (s.request rs).freeIndex = s.freeIndex := by cases rs <;> rfl

end

/-! ### Reads -/

section
variable (s : State)

@[simp] theorem State.setPart_task_read (k : Partition) (r : PartitionRecord) (u : TaskId) :
    (s.setPart k r).task u = s.task u := rfl
@[simp] theorem State.setPart_engine_read (k : Partition) (r : PartitionRecord) (u : Pu) :
    (s.setPart k r).engine u = s.engine u := rfl
@[simp] theorem State.setPart_channel_read (k : Partition) (r : PartitionRecord) (u : ChannelId) :
    (s.setPart k r).channel u = s.channel u := rfl
@[simp] theorem State.setPart_port_read (k : Partition) (r : PartitionRecord) (u : Pu) :
    (s.setPart k r).port u = s.port u := rfl
@[simp] theorem State.setPart_readyQueue_read (k : Partition) (r : PartitionRecord) (k' : Partition) (q' : Priority) :
    (s.setPart k r).readyQueue k' q' = s.readyQueue k' q' := rfl
@[simp] theorem State.setPart_urgentQueue_read (k : Partition) (r : PartitionRecord) (u : Pu) :
    (s.setPart k r).urgentQueue u = s.urgentQueue u := rfl
@[simp] theorem State.setTask_engine_read (t : TaskId) (r : TaskRecord) (u : Pu) :
    (s.setTask t r).engine u = s.engine u := rfl
@[simp] theorem State.setTask_channel_read (t : TaskId) (r : TaskRecord) (u : ChannelId) :
    (s.setTask t r).channel u = s.channel u := rfl
@[simp] theorem State.setTask_port_read (t : TaskId) (r : TaskRecord) (u : Pu) :
    (s.setTask t r).port u = s.port u := rfl
@[simp] theorem State.setTask_readyQueue_read (t : TaskId) (r : TaskRecord) (k' : Partition) (q' : Priority) :
    (s.setTask t r).readyQueue k' q' = s.readyQueue k' q' := rfl
@[simp] theorem State.setTask_urgentQueue_read (t : TaskId) (r : TaskRecord) (u : Pu) :
    (s.setTask t r).urgentQueue u = s.urgentQueue u := rfl
@[simp] theorem State.setReadyQueue_task_read (k : Partition) (q : Priority) (l : List TaskId) (u : TaskId) :
    (s.setReadyQueue k q l).task u = s.task u := rfl
@[simp] theorem State.setReadyQueue_engine_read (k : Partition) (q : Priority) (l : List TaskId) (u : Pu) :
    (s.setReadyQueue k q l).engine u = s.engine u := rfl
@[simp] theorem State.setReadyQueue_channel_read (k : Partition) (q : Priority) (l : List TaskId) (u : ChannelId) :
    (s.setReadyQueue k q l).channel u = s.channel u := rfl
@[simp] theorem State.setReadyQueue_port_read (k : Partition) (q : Priority) (l : List TaskId) (u : Pu) :
    (s.setReadyQueue k q l).port u = s.port u := rfl
@[simp] theorem State.setReadyQueue_part_read (k : Partition) (q : Priority) (l : List TaskId) (u : Partition) :
    (s.setReadyQueue k q l).part u = s.part u := rfl
@[simp] theorem State.setReadyQueue_urgentQueue_read (k : Partition) (q : Priority) (l : List TaskId) (u : Pu) :
    (s.setReadyQueue k q l).urgentQueue u = s.urgentQueue u := rfl
@[simp] theorem State.setUrgentQueue_task_read (p : Pu) (l : List TaskId) (u : TaskId) :
    (s.setUrgentQueue p l).task u = s.task u := rfl
@[simp] theorem State.setUrgentQueue_engine_read (p : Pu) (l : List TaskId) (u : Pu) :
    (s.setUrgentQueue p l).engine u = s.engine u := rfl
@[simp] theorem State.setUrgentQueue_channel_read (p : Pu) (l : List TaskId) (u : ChannelId) :
    (s.setUrgentQueue p l).channel u = s.channel u := rfl
@[simp] theorem State.setUrgentQueue_port_read (p : Pu) (l : List TaskId) (u : Pu) :
    (s.setUrgentQueue p l).port u = s.port u := rfl
@[simp] theorem State.setUrgentQueue_part_read (p : Pu) (l : List TaskId) (u : Partition) :
    (s.setUrgentQueue p l).part u = s.part u := rfl
@[simp] theorem State.setUrgentQueue_readyQueue_read (p : Pu) (l : List TaskId) (k' : Partition) (q' : Priority) :
    (s.setUrgentQueue p l).readyQueue k' q' = s.readyQueue k' q' := rfl
@[simp] theorem State.setEngine_task_read (p : Pu) (e : Engine) (u : TaskId) :
    (s.setEngine p e).task u = s.task u := rfl
@[simp] theorem State.setEngine_channel_read (p : Pu) (e : Engine) (u : ChannelId) :
    (s.setEngine p e).channel u = s.channel u := rfl
@[simp] theorem State.setEngine_port_read (p : Pu) (e : Engine) (u : Pu) :
    (s.setEngine p e).port u = s.port u := rfl
@[simp] theorem State.setEngine_part_read (p : Pu) (e : Engine) (u : Partition) :
    (s.setEngine p e).part u = s.part u := rfl
@[simp] theorem State.setEngine_readyQueue_read (p : Pu) (e : Engine) (k' : Partition) (q' : Priority) :
    (s.setEngine p e).readyQueue k' q' = s.readyQueue k' q' := rfl
@[simp] theorem State.setEngine_urgentQueue_read (p : Pu) (e : Engine) (u : Pu) :
    (s.setEngine p e).urgentQueue u = s.urgentQueue u := rfl
@[simp] theorem State.setChannel_task_read (c : ChannelId) (r : Channel) (u : TaskId) :
    (s.setChannel c r).task u = s.task u := rfl
@[simp] theorem State.setChannel_engine_read (c : ChannelId) (r : Channel) (u : Pu) :
    (s.setChannel c r).engine u = s.engine u := rfl
@[simp] theorem State.setChannel_port_read (c : ChannelId) (r : Channel) (u : Pu) :
    (s.setChannel c r).port u = s.port u := rfl
@[simp] theorem State.setChannel_part_read (c : ChannelId) (r : Channel) (u : Partition) :
    (s.setChannel c r).part u = s.part u := rfl
@[simp] theorem State.setChannel_readyQueue_read (c : ChannelId) (r : Channel) (k' : Partition) (q' : Priority) :
    (s.setChannel c r).readyQueue k' q' = s.readyQueue k' q' := rfl
@[simp] theorem State.setChannel_urgentQueue_read (c : ChannelId) (r : Channel) (u : Pu) :
    (s.setChannel c r).urgentQueue u = s.urgentQueue u := rfl
@[simp] theorem State.setPort_task_read (p : Pu) (r : Port) (u : TaskId) :
    (s.setPort p r).task u = s.task u := rfl
@[simp] theorem State.setPort_engine_read (p : Pu) (r : Port) (u : Pu) :
    (s.setPort p r).engine u = s.engine u := rfl
@[simp] theorem State.setPort_channel_read (p : Pu) (r : Port) (u : ChannelId) :
    (s.setPort p r).channel u = s.channel u := rfl
@[simp] theorem State.setPort_part_read (p : Pu) (r : Port) (u : Partition) :
    (s.setPort p r).part u = s.part u := rfl
@[simp] theorem State.setPort_readyQueue_read (p : Pu) (r : Port) (k' : Partition) (q' : Priority) :
    (s.setPort p r).readyQueue k' q' = s.readyQueue k' q' := rfl
@[simp] theorem State.setPort_urgentQueue_read (p : Pu) (r : Port) (u : Pu) :
    (s.setPort p r).urgentQueue u = s.urgentQueue u := rfl
@[simp] theorem State.latch_task_read (c : Cond) (u : TaskId) :
    (s.latch c).task u = s.task u := rfl
@[simp] theorem State.latch_engine_read (c : Cond) (u : Pu) :
    (s.latch c).engine u = s.engine u := rfl
@[simp] theorem State.latch_channel_read (c : Cond) (u : ChannelId) :
    (s.latch c).channel u = s.channel u := rfl
@[simp] theorem State.latch_port_read (c : Cond) (u : Pu) :
    (s.latch c).port u = s.port u := rfl
@[simp] theorem State.latch_part_read (c : Cond) (u : Partition) :
    (s.latch c).part u = s.part u := rfl
@[simp] theorem State.latch_readyQueue_read (c : Cond) (k' : Partition) (q' : Priority) :
    (s.latch c).readyQueue k' q' = s.readyQueue k' q' := rfl
@[simp] theorem State.latch_urgentQueue_read (c : Cond) (u : Pu) :
    (s.latch c).urgentQueue u = s.urgentQueue u := rfl
@[simp] theorem State.request_task_read (rs : List Request) (u : TaskId) :
    (s.request rs).task u = s.task u := by cases rs <;> rfl
@[simp] theorem State.request_engine_read (rs : List Request) (u : Pu) :
    (s.request rs).engine u = s.engine u := by cases rs <;> rfl
@[simp] theorem State.request_channel_read (rs : List Request) (u : ChannelId) :
    (s.request rs).channel u = s.channel u := by cases rs <;> rfl
@[simp] theorem State.request_port_read (rs : List Request) (u : Pu) :
    (s.request rs).port u = s.port u := by cases rs <;> rfl
@[simp] theorem State.request_part_read (rs : List Request) (u : Partition) :
    (s.request rs).part u = s.part u := by cases rs <;> rfl
@[simp] theorem State.request_readyQueue_read (rs : List Request) (k' : Partition) (q' : Priority) :
    (s.request rs).readyQueue k' q' = s.readyQueue k' q' := by cases rs <;> rfl
@[simp] theorem State.request_urgentQueue_read (rs : List Request) (u : Pu) :
    (s.request rs).urgentQueue u = s.urgentQueue u := by cases rs <;> rfl

theorem State.task_setTask (t u : TaskId) (r : TaskRecord) : (s.setTask t r).task u = if t = u then r else s.task u :=
  get_put ..

@[simp] theorem State.task_setTask_same (t : TaskId) (r : TaskRecord) : (s.setTask t r).task t = r := get_put_same ..

theorem State.engine_setEngine (p q : Pu) (e : Engine) : (s.setEngine p e).engine q = if p = q then e else s.engine q :=
  get_put ..

@[simp] theorem State.engine_setEngine_same (p : Pu) (e : Engine) : (s.setEngine p e).engine p = e := get_put_same ..

theorem State.channel_setChannel (c d : ChannelId) (r : Channel) :
    (s.setChannel c r).channel d = if c = d then r else s.channel d := get_put ..

@[simp] theorem State.channel_setChannel_same (c : ChannelId) (r : Channel) : (s.setChannel c r).channel c = r :=
  get_put_same ..

theorem State.port_setPort (p q : Pu) (r : Port) : (s.setPort p r).port q = if p = q then r else s.port q := get_put ..

@[simp] theorem State.port_setPort_same (p : Pu) (r : Port) : (s.setPort p r).port p = r := get_put_same ..

theorem State.part_setPart (k j : Partition) (r : PartitionRecord) :
    (s.setPart k r).part j = if k = j then r else s.part j := get_put ..

@[simp] theorem State.part_setPart_same (k : Partition) (r : PartitionRecord) : (s.setPart k r).part k = r :=
  get_put_same ..

@[simp] theorem State.readyQueue_set_same (k : Partition) (q : Priority) (l : List TaskId) :
    (s.setReadyQueue k q l).readyQueue k q = l := by
  simp [State.readyQueue, State.setReadyQueue]

@[simp] theorem State.urgentQueue_set_same (p : Pu) (l : List TaskId) : (s.setUrgentQueue p l).urgentQueue p = l :=
  get_put_same ..

/-! ### Entering SWITCHING, and the time that passes -/

@[simp] theorem Engine.enter_st (e : Engine) (sw : Switch) : (e.enter sw).st = .switching sw := rfl
@[simp] theorem Engine.enter_stack (e : Engine) (sw : Switch) : (e.enter sw).stack = e.stack := rfl
@[simp] theorem Engine.enter_faultCount (e : Engine) (sw : Switch) : (e.enter sw).faultCount = e.faultCount := rfl
@[simp] theorem Engine.enter_deferralCount (e : Engine) (sw : Switch) : (e.enter sw).deferralCount = e.deferralCount := rfl
@[simp] theorem Engine.enter_swreqRises (e : Engine) (sw : Switch) : (e.enter sw).swreqRises = e.swreqRises + 1 := rfl

@[simp] theorem State.elapse_engine_read (n : BitVec 8) (p : Pu) : (s.elapse n).engine p = (s.engine p).elapse n := by
  simp [State.elapse, State.engine]

/-- Only the engines see the time that passes. -/
theorem State.elapse_engines (n : BitVec 8) : { s.elapse n with engines := s.engines } = s := rfl

end

end Sys2Proof.Machine
end

