-- ==== Sys2Proof/Laws/Counts.lean ====
section
/-! SUPPORT. Writing one task record keeps the counts law: the one lemma all others rest on. -/

namespace Sys2Proof.Machine

/-- Counting a list without repetition after the predicate changed at one entry. -/
theorem countP_change {α : Type} [DecidableEq α] (P Q : α → Bool) (a : α) (agree : ∀ x, x ≠ a → P x = Q x) :
    ∀ l : List α, l.Nodup → a ∈ l → l.countP Q + (P a).toNat = l.countP P + (Q a).toNat
  | [], _, h => by cases h
  | x :: l, nd, h => by
    rw [List.nodup_cons] at nd
    by_cases hx : x = a
    · subst hx
      have : l.countP Q = l.countP P :=
        List.countP_congr fun y hy => by rw [agree y (fun e => nd.1 (e ▸ hy))]
      simp only [List.countP_cons, this]
      cases P x <;> cases Q x <;> simp
    · have ih := countP_change P Q a agree l nd.2 ((List.mem_cons.1 h).resolve_left fun e => hx e.symm)
      simp only [List.countP_cons, agree x hx]
      omega

/-! ### The counts of one partition after a record is counted or taken out -/

section
variable (r : TaskRecord) (v : Vector PartitionRecord 8) (k : Partition)

theorem count_member :
    (count r v)[k.val].memberCount = v[k.val].memberCount + if r.partition = k then r.memberWeight else 0 := by
  by_cases h : r.partition = k
  · subst h; simp [count]
  · simp [count, get_put, h]

theorem count_ready :
    (count r v)[k.val].readyCount = v[k.val].readyCount + if r.partition = k then r.readyWeight else 0 := by
  by_cases h : r.partition = k
  · subst h; simp [count]
  · simp [count, get_put, h]

theorem uncount_member :
    (uncount r v)[k.val].memberCount = v[k.val].memberCount - if r.partition = k then r.memberWeight else 0 := by
  by_cases h : r.partition = k
  · subst h; simp [uncount]
  · simp [uncount, get_put, h]

theorem uncount_ready :
    (uncount r v)[k.val].readyCount = v[k.val].readyCount - if r.partition = k then r.readyWeight else 0 := by
  by_cases h : r.partition = k
  · subst h; simp [uncount]
  · simp [uncount, get_put, h]

theorem count_halted : (count r v)[k.val].halted = v[k.val].halted := by
  by_cases h : r.partition = k
  · subst h; simp [count]
  · simp [count, get_put, h]

theorem uncount_halted : (uncount r v)[k.val].halted = v[k.val].halted := by
  by_cases h : r.partition = k
  · subst h; simp [uncount]
  · simp [uncount, get_put, h]

theorem count_purge : (count r v)[k.val].purge = v[k.val].purge := by
  by_cases h : r.partition = k
  · subst h; simp [count]
  · simp [count, get_put, h]

theorem uncount_purge : (uncount r v)[k.val].purge = v[k.val].purge := by
  by_cases h : r.partition = k
  · subst h; simp [uncount]
  · simp [uncount, get_put, h]

end

/-- The weight of a record in the counts of partition k is that of the predicate. -/
theorem State.member_toNat (s : State) (k : Partition) (t : TaskId) :
    (s.isMember k t).toNat = if (s.task t).partition = k then (s.task t).memberWeight else 0 := by
  by_cases h : (s.task t).partition = k <;> by_cases f : (s.task t).state = .free <;>
    simp [State.isMember, TaskRecord.memberWeight, h, f]

theorem State.ready_toNat (s : State) (k : Partition) (t : TaskId) :
    (s.isReadyIn k t).toNat = if (s.task t).partition = k then (s.task t).readyWeight else 0 := by
  by_cases h : (s.task t).partition = k <;> by_cases f : (s.task t).state = .ready <;>
    simp [State.isReadyIn, TaskRecord.readyWeight, h, f]

/-- Every change of a task record keeps the counts law (R30). -/
theorem State.countsLaw_setTask (s : State) (t : TaskId) (r : TaskRecord) (h : s.CountsLaw) :
    (s.setTask t r).CountsLaw := by
  intro k
  have nd : allTasks.Nodup := List.nodup_finRange _
  have mem : t ∈ allTasks := List.mem_finRange t
  have hm := countP_change (s.isMember k) ((s.setTask t r).isMember k) t
    (fun x hx => by simp [State.isMember, State.task_setTask, Ne.symm hx]) _ nd mem
  have hr := countP_change (s.isReadyIn k) ((s.setTask t r).isReadyIn k) t
    (fun x hx => by simp [State.isReadyIn, State.task_setTask, Ne.symm hx]) _ nd mem
  simp only [State.member_toNat, State.ready_toNat, State.task_setTask_same] at hm hr
  obtain ⟨h1, h2⟩ := h k
  have p1 : ((s.setTask t r).part k).memberCount = (uncount (s.task t) (count r s.partitions))[k.val].memberCount := rfl
  have p2 : ((s.setTask t r).part k).readyCount = (uncount (s.task t) (count r s.partitions))[k.val].readyCount := rfl
  have q1 : s.partitions[k.val].memberCount = allTasks.countP (s.isMember k) := h1
  have q2 : s.partitions[k.val].readyCount = allTasks.countP (s.isReadyIn k) := h2
  rw [p1, p2, uncount_member, uncount_ready, count_member, count_ready, q1, q2]
  omega

end Sys2Proof.Machine
end

