-- ==== Sys2Proof/Laws/Moves.lean ====
section
/-!
SUPPORT. What the Selector, the engines and the lists can do to the state, said once: `Moves s s'`. A move of tasks between
their places leaves the Frame Unit, the ports, the violation record, the enable mask, the pins, the queue of commands, what
BIND set on each channel, and every halt and purge as they were, and keeps the counts law. One lemma per operation; a later
proof cites it and unfolds nothing.
-/

namespace Sys2Proof.Machine

/-- The channel record without its waiters. -/
def Channel.setup (r : Channel) : Channel := { r with waiters := [] }

structure Moves (s s' : State) : Prop where
  frame : s'.frame = s.frame
  ports : s'.ports = s.ports
  violation : s'.violation = s.violation
  enable : s'.conds.enable = s.conds.enable
  pins : s'.pins = s.pins
  pending : s'.pending = s.pending
  setup : ∀ c, (s'.channel c).setup = (s.channel c).setup
  halted : ∀ k, (s'.part k).halted = (s.part k).halted
  purge : ∀ k, (s'.part k).purge = (s.part k).purge
  counts : s.CountsLaw → s'.CountsLaw

namespace Moves

theorem refl (s : State) : Moves s s := ⟨rfl, rfl, rfl, rfl, rfl, rfl, fun _ => rfl, fun _ => rfl, fun _ => rfl, id⟩

theorem trans {a b c : State} (h : Moves a b) (g : Moves b c) : Moves a c where
  frame := g.frame.trans h.frame
  ports := g.ports.trans h.ports
  violation := g.violation.trans h.violation
  enable := g.enable.trans h.enable
  pins := g.pins.trans h.pins
  pending := g.pending.trans h.pending
  setup c := (g.setup c).trans (h.setup c)
  halted k := (g.halted k).trans (h.halted k)
  purge k := (g.purge k).trans (h.purge k)
  counts x := g.counts (h.counts x)

variable {a s : State}

/-! ### Primitive updates -/

theorem setTask (t : TaskId) (r : TaskRecord) (h : Moves a s) : Moves a (s.setTask t r) :=
  h.trans ⟨rfl, rfl, rfl, rfl, rfl, rfl, fun _ => rfl,
    fun k => (uncount_halted ..).trans (count_halted r s.partitions k),
    fun k => (uncount_purge ..).trans (count_purge r s.partitions k), s.countsLaw_setTask t r⟩

theorem modTask (t : TaskId) (f : TaskRecord → TaskRecord) (h : Moves a s) : Moves a (s.modTask t f) := setTask _ _ h

theorem freeTask (t : TaskId) (h : Moves a s) : Moves a (s.freeTask t) := setTask _ _ h

theorem suspendAs (t : TaskId) (why : StopReason) (h : Moves a s) : Moves a (s.suspendAs t why) := modTask _ _ h

theorem setReadyQueue (k : Partition) (q : Priority) (l : List TaskId) (h : Moves a s) :
    Moves a (s.setReadyQueue k q l) :=
  h.trans ⟨rfl, rfl, rfl, rfl, rfl, rfl, fun _ => rfl, fun _ => rfl, fun _ => rfl, id⟩

theorem setUrgentQueue (p : Pu) (l : List TaskId) (h : Moves a s) : Moves a (s.setUrgentQueue p l) :=
  h.trans ⟨rfl, rfl, rfl, rfl, rfl, rfl, fun _ => rfl, fun _ => rfl, fun _ => rfl, id⟩

theorem setEngine (p : Pu) (e : Engine) (h : Moves a s) : Moves a (s.setEngine p e) :=
  h.trans ⟨rfl, rfl, rfl, rfl, rfl, rfl, fun _ => rfl, fun _ => rfl, fun _ => rfl, id⟩

theorem elapse (n : BitVec 8) (h : Moves a s) : Moves a (s.elapse n) :=
  h.trans ⟨rfl, rfl, rfl, rfl, rfl, rfl, fun _ => rfl, fun _ => rfl, fun _ => rfl, id⟩

theorem modEngine (p : Pu) (f : Engine → Engine) (h : Moves a s) : Moves a (s.modEngine p f) := setEngine _ _ h

theorem setEngineState (p : Pu) (st : EngineState) (h : Moves a s) : Moves a (s.setEngineState p st) := modEngine _ _ h

theorem setStack (p : Pu) (l : List TaskId) (h : Moves a s) : Moves a (s.setStack p l) := modEngine _ _ h

theorem modSwitch (p : Pu) (f : Switch → Switch) (h : Moves a s) : Moves a (s.modSwitch p f) := modEngine _ _ h

theorem latch (c : Cond) (h : Moves a s) : Moves a (s.latch c) :=
  h.trans ⟨rfl, rfl, rfl, rfl, rfl, rfl, fun _ => rfl, fun _ => rfl, fun _ => rfl, id⟩

theorem setDelayList (l : List TaskId) (h : Moves a s) : Moves a { s with delayList := l } :=
  h.trans ⟨rfl, rfl, rfl, rfl, rfl, rfl, fun _ => rfl, fun _ => rfl, fun _ => rfl, id⟩

theorem setRequests (l : List (List Request)) (h : Moves a s) : Moves a { s with requests := l } :=
  h.trans ⟨rfl, rfl, rfl, rfl, rfl, rfl, fun _ => rfl, fun _ => rfl, fun _ => rfl, id⟩

theorem setFreeIndex (n : Nat) (h : Moves a s) : Moves a { s with freeIndex := n } :=
  h.trans ⟨rfl, rfl, rfl, rfl, rfl, rfl, fun _ => rfl, fun _ => rfl, fun _ => rfl, id⟩

theorem request (rs : List Request) (h : Moves a s) : Moves a (s.request rs) := by
  unfold State.request; split
  · exact h
  · exact setRequests _ h

/-- A change of a channel's waiter list. -/
theorem setWaiters (c : ChannelId) (l : List TaskId) (h : Moves a s) :
    Moves a (s.modChannel c fun r => { r with waiters := l }) :=
  h.trans ⟨rfl, rfl, rfl, rfl, rfl, rfl, fun d => by
    by_cases hd : c = d
    · subst hd; simp [Channel.setup]
    · simp [State.channel_setChannel, hd], fun _ => rfl, fun _ => rfl, id⟩

theorem foldl {β : Type} (f : State → β → State) (step : ∀ s b, Moves s (f s b)) (l : List β) (h : Moves a s) :
    Moves a (l.foldl f s) := by
  induction l generalizing s with
  | nil => exact h
  | cons x l ih => exact ih (h.trans (step s x))

/-! ### Queues and lists (Ops) -/

theorem enterQueue (t : TaskId) (e : QueueEnd) (h : Moves a s) : Moves a (s.enterQueue t e) := by
  unfold State.enterQueue
  dsimp only
  split <;> first | exact setReadyQueue _ _ _ h | exact setUrgentQueue _ _ h

theorem leaveQueue (t : TaskId) (h : Moves a s) : Moves a (s.leaveQueue t) := by
  unfold State.leaveQueue
  dsimp only
  split <;> first | exact setReadyQueue _ _ _ h | exact setUrgentQueue _ _ h

theorem makeReady (t : TaskId) (e : QueueEnd) (h : Moves a s) : Moves a (s.makeReady t e) := enterQueue _ _ (modTask _ _ h)

theorem enterWaiters (c : ChannelId) (t : TaskId) (h : Moves a s) : Moves a (s.enterWaiters c t) :=
  modTask _ _ (setWaiters _ _ h)

theorem leaveWaiters (t : TaskId) (h : Moves a s) : Moves a (s.leaveWaiters t) := by
  unfold State.leaveWaiters
  split
  · exact modTask _ _ (setWaiters _ _ h)
  · exact h

theorem enterDelayList (t : TaskId) (n : BitVec 32) (h : Moves a s) : Moves a (s.enterDelayList t n) := by
  unfold State.enterDelayList
  exact modTask _ _ (setDelayList _ h)

theorem leaveDelayList (t : TaskId) (h : Moves a s) : Moves a (s.leaveDelayList t) := modTask _ _ (setDelayList _ h)

theorem voidPlace (t : TaskId) (h : Moves a s) : Moves a (s.voidPlace t) := setRequests _ h

/-! ### Claims and the unwind choice (Selector) -/

theorem claimFor (p : Pu) (t : TaskId) (h : Moves a s) : Moves a (s.claimFor p t) :=
  modSwitch _ _ (modTask _ _ (leaveQueue _ h))

theorem takeClaim (p : Pu) (o : Option TaskId) (h : Moves a s) : Moves a (s.takeClaim p o) := by
  cases o with
  | none => exact h
  | some t => exact claimFor p t h

theorem returnClaim (p : Pu) (h : Moves a s) : Moves a (s.returnClaim p) := by
  unfold State.returnClaim
  split
  · exact makeReady _ _ (modSwitch _ _ h)
  · exact h

theorem retarget (p : Pu) (t : TaskId) (h : Moves a s) : Moves a (s.retarget p t) := by
  unfold State.retarget
  split
  · exact request _ (claimFor _ _ (returnClaim _ h))
  · exact claimFor _ _ h

theorem emptyStack (p : Pu) (h : Moves a s) : Moves a (s.emptyStack p) :=
  foldl _ (fun s _ => makeReady _ _ (refl s)) _ (setStack _ _ h)

theorem unwindStack (p : Pu) (u : Option TaskId) (x : Extra) (l back : List TaskId) (h : Moves a s) :
    Moves a (Machine.unwindStack p u x l s back).st := by
  induction l generalizing s back with
  | nil => unfold Machine.unwindStack; split <;> exact h
  | cons T rest ih =>
    unfold Machine.unwindStack
    split
    · exact h
    · split
      · exact setStack _ _ h
      · exact ih _ (makeReady _ _ (setStack _ _ h))

theorem unwind (p : Pu) (standing : Option TaskId) (x : Extra) (h : Moves a s) : Moves a (s.unwind p standing x).st := by
  unfold State.unwind
  split
  · exact unwindStack _ _ _ _ _ h
  · dsimp only
    split
    · exact h
    · split
      · exact h
      · exact unwindStack _ _ _ _ _ h

/-! ### Switches (Engines) -/

theorem beginSwitch (p : Pu) (why : SwitchReason) (d : Dest) (h : Moves a s) : Moves a (s.beginSwitch p why d) := by
  unfold State.beginSwitch
  exact modEngine _ _ h

theorem switchOut (p : Pu) (why : SwitchReason) (d : Dest) (h : Moves a s) : Moves a (s.switchOut p why d) :=
  request _ (takeClaim _ _ (unwind _ _ _ (beginSwitch _ _ _ h)))

theorem ownChoice (p : Pu) (h : Moves a s) : Moves a (s.ownChoice p) := by
  unfold State.ownChoice
  dsimp only
  refine request _ ?_
  split
  · exact claimFor _ _ (beginSwitch _ _ _ (unwind _ _ _ h))
  · exact unwind _ _ _ h

theorem nest (p : Pu) (f : TaskId) (h : Moves a s) : Moves a (s.nest p f) := claimFor _ _ (beginSwitch _ _ _ h)

theorem defer (p : Pu) (h : Moves a s) : Moves a (s.defer p) := latch _ (modEngine _ _ h)

theorem displaceOutgoing (p : Pu) (h : Moves a s) : Moves a (s.displaceOutgoing p) := by
  unfold State.displaceOutgoing
  repeat' split
  all_goals first
    | exact h
    | exact modSwitch _ _ h

theorem urgentArrival (p : Pu) (h : Moves a s) : Moves a (s.urgentArrival p) := by
  unfold State.urgentArrival
  repeat' split
  all_goals first
    | exact h
    | exact nest _ _ h
    | exact defer _ h
    | exact retarget _ _ h
    | exact displaceOutgoing _ (retarget _ _ h)
    | exact displaceOutgoing _ (claimFor _ _ h)

theorem reEvaluate (p : Pu) (h : Moves a s) : Moves a (s.reEvaluate p) := by
  unfold State.reEvaluate
  split
  · exact ownChoice _ h
  · exact urgentArrival _ h

theorem requestDest (p : Pu) (d : Dest) (h : Moves a s) : Moves a (s.requestDest p d) := by
  unfold State.requestDest
  dsimp only
  split
  · split
    · split
      · exact reEvaluate _ (modSwitch _ _ h)
      · exact modSwitch _ _ h
    · exact h
  · exact h

theorem askOut (p : Pu) (why : SwitchReason) (d : Dest) (h : Moves a s) : Moves a (s.askOut p why d) := by
  unfold State.askOut
  split
  · exact switchOut _ _ _ h
  · exact requestDest _ _ h
  · exact h

theorem withdraw (p : Pu) (h : Moves a s) : Moves a (s.withdraw p) := by
  unfold State.withdraw
  split
  · split
    · exact setEngineState _ _ h
    · exact h
  · exact h

theorem newChoice (p : Pu) (h : Moves a s) : Moves a (s.newChoice p) := by
  unfold State.newChoice
  split
  · dsimp only
    refine request _ ?_
    have hu := fun q x => unwind p q x h
    repeat' split
    all_goals first
      | exact withdraw _ (modSwitch _ _ (hu _ _))
      | exact claimFor _ _ (modSwitch _ _ (hu _ _))
      | exact modSwitch _ _ (hu _ _)
      | exact withdraw _ (hu _ _)
      | exact claimFor _ _ (hu _ _)
      | exact hu _ _
  · exact h

theorem place (t : TaskId) (h : Moves a s) : Moves a (s.place t) := by
  unfold State.place
  repeat' split
  all_goals first
    | exact h
    | exact retarget _ _ h
    | exact claimFor _ _ (beginSwitch _ _ _ h)

theorem reEvaluateRunning (p : Pu) (t : TaskId) (h : Moves a s) : Moves a (s.reEvaluateRunning p t) := by
  unfold State.reEvaluateRunning
  repeat' split
  all_goals first
    | exact h
    | exact claimFor _ _ (beginSwitch _ _ _ h)
    | exact switchOut _ _ _ h

theorem reEvaluateSwitching (p : Pu) (sw : Switch) (h : Moves a s) : Moves a (s.reEvaluateSwitching p sw) := by
  unfold State.reEvaluateSwitching
  repeat' split
  all_goals first
    | exact h
    | exact newChoice _ h
    | exact request _ (withdraw _ (returnClaim _ h))
    | exact retarget _ _ h
    | exact request _ (newChoice _ (returnClaim _ h))

theorem windowReEvaluate (p : Pu) (first : Bool) (h : Moves a s) : Moves a (s.windowReEvaluate p first) := by
  unfold State.windowReEvaluate
  dsimp only
  repeat' split
  all_goals first
    | exact h
    | exact urgentArrival _ h
    | exact ownChoice _ h
    | exact ownChoice _ (urgentArrival _ h)
    | exact reEvaluateRunning _ _ h
    | exact reEvaluateRunning _ _ (urgentArrival _ h)
    | exact reEvaluateSwitching _ _ h
    | exact reEvaluateSwitching _ _ (urgentArrival _ h)

theorem takeOut (t : TaskId) (final : State → State) (hf : ∀ s, Moves s (final s)) (h : Moves a s) :
    Moves a (s.takeOut t final) := by
  unfold State.takeOut
  repeat' split
  all_goals first
    | exact h
    | exact h.trans (hf _)
    | exact (leaveQueue _ h).trans (hf _)
    | exact newChoice _ ((modSwitch _ _ h).trans (hf _))
    | exact reEvaluate _ ((setStack _ _ h).trans (hf _))
    | exact (leaveDelayList _ (leaveWaiters _ h)).trans (hf _)

theorem askOutOf (t : TaskId) (why : SwitchReason) (d : Dest) (h : Moves a s) : Moves a (s.askOutOf t why d) := by
  unfold State.askOutOf
  split
  · exact askOut _ _ _ h
  · exact h

theorem suspendTask (t : TaskId) (h : Moves a s) : Moves a (s.suspendTask t) := by
  unfold State.suspendTask
  split
  · exact askOutOf _ _ _ h
  · exact takeOut _ _ (fun s => modTask _ _ (refl s)) h

theorem retireTask (t : TaskId) (h : Moves a s) : Moves a (s.retireTask t) := by
  unfold State.retireTask
  split
  · exact askOutOf _ _ _ h
  · exact takeOut _ _ (fun s => freeTask _ (refl s)) h

/-! ### Halts and lifecycle commands (Partitions, Tasks) -/

theorem eachEngine (ps : List Pu) (act : Pu → State → State) (ha : ∀ p s, Moves s (act p s)) (h : Moves a s) :
    Moves a (s.eachEngine ps act) :=
  foldl _ (fun s p => ha p s) _ (setFreeIndex _ h)

theorem haltEngine (k : Partition) (p : Pu) (h : Moves a s) : Moves a (s.haltEngine k p) := by
  have h1 : Moves a (if s.inPartition k (s.engine p).runningTask then s.askOut p .halt .readyHead else s) := by
    split
    · exact askOut _ _ _ h
    · exact h
  unfold State.haltEngine
  dsimp only
  generalize (if s.inPartition k (s.engine p).runningTask = true then s.askOut p .halt .readyHead else s) = s1 at h1 ⊢
  repeat' split
  all_goals first
    | exact h1
    | exact request _ (newChoice _ (returnClaim _ h1))
    | exact newChoice _ (returnClaim _ h1)

theorem readyTail (t : TaskId) (h : Moves a s) : Moves a (s.readyTail t) := by
  unfold State.readyTail
  exact request _ (makeReady _ _ h)

theorem changePriority (t : TaskId) (q : Priority) (h : Moves a s) : Moves a (s.changePriority t q) := by
  unfold State.changePriority
  dsimp only
  repeat' split
  all_goals first
    | exact modTask _ _ h
    | exact reEvaluate _ (modTask _ _ h)
    | exact reEvaluate _ (enterQueue _ _ (modTask _ _ (leaveQueue _ h)))
    | exact request _ (voidPlace _ (enterQueue _ _ (modTask _ _ (leaveQueue _ h))))
    | exact enterWaiters _ _ (modTask _ _ (leaveWaiters _ h))
    | exact claimFor _ _ (beginSwitch _ _ _ (modTask _ _ h))

theorem changeAffinity (t : TaskId) (m : BitVec 8) (h : Moves a s) : Moves a (s.changeAffinity t m) := by
  unfold State.changeAffinity
  dsimp only
  repeat' split
  all_goals first
    | exact modTask _ _ h
    | exact request _ (modTask _ _ h)
    | exact request _ (newChoice _ (returnClaim _ (modTask _ _ h)))
    | exact askOut _ _ _ (modTask _ _ h)

/-! ### Handovers, wakes, self commands -/

theorem storeWord (t : TaskId) (w : Option Word) (h : Moves a s) : Moves a (s.storeWord t w) := by
  cases w with
  | none => exact h
  | some x => exact modTask t (fun r => { r with resumeWord := x }) h

theorem run (p : Pu) (t : TaskId) (h : Moves a s) : Moves a (s.run p t) := setEngineState _ _ (modTask _ _ (leaveQueue _ h))

theorem dropRunning (p : Pu) (h : Moves a s) : Moves a (s.dropRunning p) := by
  unfold State.dropRunning
  split
  · split
    · exact freeTask _ h
    · exact suspendAs _ _ h
  · exact h

theorem takeDown (p : Pu) (st : EngineState) (h : Moves a s) : Moves a (s.takeDown p st) :=
  setEngineState _ _ (emptyStack _ (returnClaim _ (dropRunning _ h)))

theorem wake (t : TaskId) (r : WaitResult) (h : Moves a s) : Moves a (s.wake t r) :=
  makeReady _ _ (modTask _ _ (leaveDelayList _ (leaveWaiters _ h)))

theorem wakeAll (result : State → TaskId → WaitResult) (ts : List TaskId) (h : Moves a s) :
    Moves a (s.wakeAll result ts) :=
  request _ (foldl _ (fun s _ => wake _ _ (refl s)) _ h)

theorem enlist (t : TaskId) (c : ChannelId) (n : BitVec 32) (h : Moves a s) : Moves a (s.enlist t c n) := by
  unfold State.enlist
  dsimp only
  split
  · exact enterWaiters _ _ (modTask _ _ h)
  · exact enterDelayList _ _ (enterWaiters _ _ (modTask _ _ h))

theorem startDelay (t : TaskId) (n : BitVec 32) (h : Moves a s) : Moves a (s.startDelay t n) :=
  enterDelayList _ _ (modTask _ _ h)

theorem finish (t : TaskId) (h : Moves a s) : Moves a (s.finish t) := modTask _ _ h

/-! ### Budgets and STOP -/

theorem warnTest (t : TaskId) (h : Moves a s) : Moves a (s.warnTest t) := by
  unfold State.warnTest
  split
  · exact latch _ (modTask _ _ h)
  · exact h

theorem markLimit (t : TaskId) (h : Moves a s) : Moves a (s.markLimit t) := latch _ (modTask _ _ h)

theorem budgetAction (p : Pu) (t : TaskId) (h : Moves a s) : Moves a (s.budgetAction p t) := by
  unfold State.budgetAction
  split
  · exact h
  · exact askOut _ _ _ h
  · exact askOut _ _ _ h
  · exact request _ h

theorem limitTest (p : Pu) (t : TaskId) (h : Moves a s) : Moves a (s.limitTest p t) := by
  unfold State.limitTest
  split
  · exact budgetAction _ _ (markLimit _ h)
  · exact h

theorem charge (p : Pu) (h : Moves a s) : Moves a (s.charge p) := by
  unfold State.charge
  split
  · exact limitTest _ _ (warnTest _ (modTask _ _ h))
  · exact h

theorem task_renewed (s : State) (t : TaskId) :
    State.task { s with tasks := s.tasks.map TaskRecord.renewed } t = (s.task t).renewed := by
  simp [State.task]

/-- A change that leaves every record's state and partition keeps the counts. -/
theorem renew (h : Moves a s) : Moves a { s with tasks := s.tasks.map TaskRecord.renewed } :=
  h.trans ⟨rfl, rfl, rfl, rfl, rfl, rfl, fun _ => rfl, fun _ => rfl, fun _ => rfl, fun hc k => by
    have e1 : State.isMember { s with tasks := s.tasks.map TaskRecord.renewed } k = s.isMember k := by
      funext t; unfold State.isMember; rw [task_renewed]; rfl
    have e2 : State.isReadyIn { s with tasks := s.tasks.map TaskRecord.renewed } k = s.isReadyIn k := by
      funext t; unfold State.isReadyIn; rw [task_renewed]; rfl
    rw [e1, e2]
    exact hc k⟩

theorem takeFrameStart (h : Moves a s) : Moves a s.takeFrameStart :=
  request _ (foldl _ (fun s _ => makeReady _ _ (refl s)) _ (renew h))

theorem stopReturns (p : Pu) (ts : List TaskId) (h : Moves a s) : Moves a (s.stopReturns p ts) :=
  request _ (emptyStack _ h)

theorem dropPush (p : Pu) (h : Moves a s) : Moves a (s.dropPush p) := by
  unfold State.dropPush
  split
  · exact modSwitch _ _ h
  · exact h

theorem stopEngine (p : Pu) (h : Moves a s) : Moves a (s.stopEngine p) := by
  unfold State.stopEngine
  split
  · exact stopReturns _ _ (beginSwitch _ _ _ h)
  · exact stopReturns _ _ (dropPush _ (returnClaim _ h))
  · exact h

end Moves

end Sys2Proof.Machine
end

