-- ==== Sys2Proof/Laws/Queues.lean ====
section
/-!
SUPPORT. Where an insertion puts its task, what a queue holds after an update, and searches over the eight PUs.
-/

namespace Sys2Proof.Machine

/-! ### Insertions split the list they go into -/

theorem insertLast_split (key : TaskId → Nat) (t : TaskId) (l : List TaskId) :
    ∃ before after, l = before ++ after ∧ insertLast key t l = before ++ t :: after ∧
      (∀ y ∈ before, key y ≤ key t) ∧ ∀ y, after.head? = some y → key t < key y := by
  induction l with
  | nil => exact ⟨[], [], rfl, rfl, by simp, by simp⟩
  | cons x l ih =>
    unfold insertLast
    split
    · obtain ⟨b, a, h1, h2, h3, h4⟩ := ih
      refine ⟨x :: b, a, by rw [h1]; rfl, by rw [h2]; rfl, ?_, h4⟩
      intro y hy
      rcases List.mem_cons.1 hy with rfl | hy
      · assumption
      · exact h3 y hy
    · exact ⟨[], x :: l, rfl, rfl, by simp, by intro y hy; simp at hy; subst hy; omega⟩

theorem insertFirst_split (key : TaskId → Nat) (t : TaskId) (l : List TaskId) :
    ∃ before after, l = before ++ after ∧ insertFirst key t l = before ++ t :: after ∧
      (∀ y ∈ before, key y < key t) ∧ ∀ y, after.head? = some y → key t ≤ key y := by
  induction l with
  | nil => exact ⟨[], [], rfl, rfl, by simp, by simp⟩
  | cons x l ih =>
    unfold insertFirst
    split
    · obtain ⟨b, a, h1, h2, h3, h4⟩ := ih
      refine ⟨x :: b, a, by rw [h1]; rfl, by rw [h2]; rfl, ?_, h4⟩
      intro y hy
      rcases List.mem_cons.1 hy with rfl | hy
      · assumption
      · exact h3 y hy
    · exact ⟨[], x :: l, rfl, rfl, by simp, by intro y hy; simp at hy; subst hy; omega⟩

theorem insertDue_split (wakeOf : TaskId → BitVec 32) (t : TaskId) (w : BitVec 32) (l : List TaskId) :
    ∃ before after, l = before ++ after ∧ insertDue wakeOf t w l = before ++ t :: after ∧
      (∀ u ∈ before, (w - wakeOf u).toNat < 2 ^ 31) ∧ ∀ u, after.head? = some u → 2 ^ 31 ≤ (w - wakeOf u).toNat := by
  induction l with
  | nil => exact ⟨[], [], rfl, rfl, by simp, by simp⟩
  | cons x l ih =>
    unfold insertDue
    split
    · rename_i hx
      obtain ⟨b, a, h1, h2, h3, h4⟩ := ih
      refine ⟨x :: b, a, by rw [h1]; rfl, by rw [h2]; rfl, ?_, h4⟩
      intro y hy
      rcases List.mem_cons.1 hy with rfl | hy
      · simpa [dueNoLater] using hx
      · exact h3 y hy
    · rename_i hx
      refine ⟨[], x :: l, rfl, rfl, by simp, ?_⟩
      intro y hy; simp at hy; subst hy; simpa [dueNoLater] using hx

/-! ### Queues after an update -/

theorem State.readyQueue_setReadyQueue (s : State) (k k' : Partition) (q q' : Priority) (l : List TaskId) :
    (s.setReadyQueue k q l).readyQueue k' q' = if (k, q) = (k', q') then l else s.readyQueue k' q' := by
  by_cases hk : k = k'
  · subst hk
    by_cases hq : q = q'
    · subst hq; simp [State.readyQueue, State.setReadyQueue]
    · simp [State.readyQueue, State.setReadyQueue, get_put, hq]
  · simp [State.readyQueue, State.setReadyQueue, get_put, hk]

theorem State.urgentQueue_setUrgentQueue (s : State) (p q : Pu) (l : List TaskId) :
    (s.setUrgentQueue p l).urgentQueue q = if p = q then l else s.urgentQueue q := get_put ..

@[simp] theorem State.enterQueue_task (s : State) (t u : TaskId) (e : QueueEnd) :
    (s.enterQueue t e).task u = s.task u := by
  unfold State.enterQueue; dsimp only; split <;> rfl

@[simp] theorem State.leaveQueue_task (s : State) (t u : TaskId) : (s.leaveQueue t).task u = s.task u := by
  unfold State.leaveQueue; dsimp only; split <;> rfl

@[simp] theorem State.enterQueue_engine (s : State) (t : TaskId) (e : QueueEnd) (p : Pu) :
    (s.enterQueue t e).engine p = s.engine p := by
  unfold State.enterQueue; dsimp only; split <;> rfl

@[simp] theorem State.leaveQueue_engine (s : State) (t : TaskId) (p : Pu) :
    (s.leaveQueue t).engine p = s.engine p := by
  unfold State.leaveQueue; dsimp only; split <;> rfl

/-! ### Task records written twice -/

theorem PartitionRecord.ext_fields {a b : PartitionRecord} (h1 : a.halted = b.halted) (h2 : a.purge = b.purge)
    (h3 : a.memberCount = b.memberCount) (h4 : a.readyCount = b.readyCount) : a = b := by
  cases a; cases b; simp_all

theorem uncount_count_same (r r' : TaskRecord) (v : Vector PartitionRecord 8) (h1 : r.state = r'.state)
    (h2 : r.partition = r'.partition) : uncount r (count r' v) = v := by
  ext1 i hi
  apply PartitionRecord.ext_fields
  · exact (uncount_halted r (count r' v) ⟨i, hi⟩).trans (count_halted r' v ⟨i, hi⟩)
  · exact (uncount_purge r (count r' v) ⟨i, hi⟩).trans (count_purge r' v ⟨i, hi⟩)
  · have := uncount_member r (count r' v) ⟨i, hi⟩
    rw [count_member, h2] at this
    simpa [TaskRecord.memberWeight, h1] using this
  · have := uncount_ready r (count r' v) ⟨i, hi⟩
    rw [count_ready, h2] at this
    simpa [TaskRecord.readyWeight, h1] using this

/-- A record that keeps its state and its partition leaves the counts alone. -/
theorem State.setTask_same_counts (s : State) (t : TaskId) (r : TaskRecord) (h1 : r.state = (s.task t).state)
    (h2 : r.partition = (s.task t).partition) : s.setTask t r = { s with tasks := put s.tasks t r } := by
  have : uncount s.tasks[t] (count r s.partitions) = s.partitions := uncount_count_same _ _ _ h1.symm h2.symm
  simp [State.setTask]; exact this

/-- Of two writes of one record, where the first keeps its state and partition, the second stands. -/
theorem State.setTask_setTask (s : State) (t : TaskId) (r1 r2 : TaskRecord) (h1 : r1.state = (s.task t).state)
    (h2 : r1.partition = (s.task t).partition) : (s.setTask t r1).setTask t r2 = s.setTask t r2 := by
  rw [s.setTask_same_counts t r1 h1 h2]
  have h1' : r1.state = s.tasks[t.val].state := h1
  have h2' : r1.partition = s.tasks[t.val].partition := h2
  have e : uncount r1 (count r2 s.partitions) = uncount s.tasks[t.val] (count r2 s.partitions) := by
    ext1 i hi
    apply PartitionRecord.ext_fields
    · exact (uncount_halted r1 _ ⟨i, hi⟩).trans (uncount_halted s.tasks[t.val] _ ⟨i, hi⟩).symm
    · exact (uncount_purge r1 _ ⟨i, hi⟩).trans (uncount_purge s.tasks[t.val] _ ⟨i, hi⟩).symm
    · have a := uncount_member r1 (count r2 s.partitions) ⟨i, hi⟩
      have b := uncount_member s.tasks[t.val] (count r2 s.partitions) ⟨i, hi⟩
      rw [h2'] at a
      simp only [TaskRecord.memberWeight, h1'] at a b
      exact a.trans b.symm
    · have a := uncount_ready r1 (count r2 s.partitions) ⟨i, hi⟩
      have b := uncount_ready s.tasks[t.val] (count r2 s.partitions) ⟨i, hi⟩
      rw [h2'] at a
      simp only [TaskRecord.readyWeight, h1'] at a b
      exact a.trans b.symm
  simp [State.setTask, put_put, e]

/-! ### Searches over the eight PUs, partitions or priorities -/

theorem mem_all8 : ∀ p : Pu, p ∈ all8 := by decide

theorem all8_eq : all8 = ([0, 1, 2, 3, 4, 5, 6, 7] : List Pu) := by decide

theorem all8_rises : all8.Pairwise (· < ·) := by decide

/-- A search over the eight finds the lowest-numbered one that answers. -/
theorem all8_findSome {α : Type} (f : Fin 8 → Option α) (b : α) :
    all8.findSome? f = some b ↔ ∃ k, f k = some b ∧ ∀ j, j < k → f j = none := by
  have early : ∀ {a : Fin 8} {l1 l2 : List (Fin 8)}, all8 = l1 ++ a :: l2 → ∀ j, j < a → j ∈ l1 := by
    intro a l1 l2 e j hj
    have rises := all8_rises
    rw [e, List.pairwise_append] at rises
    have hm := mem_all8 j
    rw [e] at hm
    rcases List.mem_append.1 hm with g | g
    · exact g
    · rcases List.mem_cons.1 g with g | g
      · exact absurd (g ▸ hj) (lt_irrefl _)
      · exact absurd hj (not_lt.2 (le_of_lt ((List.pairwise_cons.1 rises.2.1).1 j g)))
  constructor
  · intro h
    obtain ⟨l1, a, l2, e, h1, h2⟩ := List.findSome?_eq_some_iff.1 h
    exact ⟨a, h1, fun j hj => h2 j (early e j hj)⟩
  · rintro ⟨k, h1, h2⟩
    cases e : all8.findSome? f with
    | none => rw [List.findSome?_eq_none_iff] at e; rw [e k (mem_all8 k)] at h1; cases h1
    | some c =>
      obtain ⟨l1, a, l2, e, h3, h4⟩ := List.findSome?_eq_some_iff.1 e
      rcases lt_trichotomy a k with g | g | g
      · rw [h2 a g] at h3; cases h3
      · subst g; rw [h1] at h3; exact h3.symm
      · rw [h4 k (early e k g)] at h1; cases h1

theorem all8_find (f : Fin 8 → Bool) (b : Fin 8) : all8.find? f = some b ↔ f b = true ∧ ∀ j, j < b → f j = false := by
  have same : ∀ l : List (Fin 8), l.findSome? (fun q => if f q then some q else none) = l.find? f := by
    intro l
    induction l with
    | nil => rfl
    | cons a l ih => simp only [List.findSome?_cons, List.find?_cons]; by_cases h : f a <;> simp [h, ih]
  rw [← same, all8_findSome]
  constructor
  · rintro ⟨k, h1, h2⟩
    split at h1 <;> simp_all
  · rintro ⟨h1, h2⟩
    exact ⟨b, by simp [h1], fun j hj => by simp [h2 j hj]⟩

/-- A search that only one of the eight meets finds that one. -/
theorem all8_find_only {f : Fin 8 → Bool} {q : Fin 8} (h : f q = true) (only : ∀ r, f r = true → r = q) :
    all8.find? f = some q := by
  cases e : all8.find? f with
  | none => rw [List.find?_eq_none] at e; exact absurd h (e q (mem_all8 q))
  | some r => rw [only r (List.find?_some e)]

/-! ### The PU of the least urgent task -/

theorem leastUrgentPu_none (key : Pu → Option Nat) (l : List Pu) :
    leastUrgentPu key l = none ↔ ∀ p ∈ l, key p = none := by
  induction l with
  | nil => simp [leastUrgentPu]
  | cons p ps ih =>
    unfold leastUrgentPu
    cases h : key p with
    | none => simp [ih, h]
    | some n =>
      simp only [List.mem_cons, forall_eq_or_imp, h]
      simp
      cases h2 : leastUrgentPu key ps with
      | none => simp
      | some q => simp; split <;> simp

theorem leastUrgentPu_some (key : Pu → Option Nat) (l : List Pu) (hl : l.Pairwise (· < ·)) (p : Pu)
    (h : leastUrgentPu key l = some p) :
    p ∈ l ∧ ∃ n, key p = some n ∧ ∀ q ∈ l, ∀ m, key q = some m → m < n ∨ (m = n ∧ p ≤ q) := by
  induction l generalizing p with
  | nil => simp [leastUrgentPu] at h
  | cons a ps ih =>
    have hp := List.pairwise_cons.1 hl
    unfold leastUrgentPu at h
    cases ha : key a with
    | none =>
      rw [ha] at h
      obtain ⟨h1, n, h2, h3⟩ := ih hp.2 p h
      refine ⟨List.mem_cons_of_mem _ h1, n, h2, fun q hq m hm => ?_⟩
      rcases List.mem_cons.1 hq with rfl | hq
      · rw [ha] at hm; cases hm
      · exact h3 q hq m hm
    | some n =>
      rw [ha] at h
      dsimp only at h
      cases h2 : leastUrgentPu key ps with
      | none =>
        rw [h2] at h; cases h
        refine ⟨List.mem_cons_self, n, ha, fun q hq m hm => ?_⟩
        rcases List.mem_cons.1 hq with rfl | hq
        · rw [ha] at hm; cases hm; exact .inr ⟨rfl, le_refl _⟩
        · rw [(leastUrgentPu_none key ps).1 h2 q hq] at hm; cases hm
      | some b =>
        rw [h2] at h; dsimp only at h
        obtain ⟨g1, n', g2, g3⟩ := ih hp.2 b h2
        rw [g2] at h; simp only [Option.getD_some] at h
        split at h <;> cases h
        · refine ⟨List.mem_cons_of_mem _ g1, n', g2, fun q hq m hm => ?_⟩
          rcases List.mem_cons.1 hq with rfl | hq
          · rw [ha] at hm; cases hm; left; assumption
          · exact g3 q hq m hm
        · refine ⟨List.mem_cons_self, n, ha, fun q hq m hm => ?_⟩
          rcases List.mem_cons.1 hq with rfl | hq
          · rw [ha] at hm; cases hm; exact .inr ⟨rfl, le_refl _⟩
          · have hlt := hp.1 q hq
            rcases g3 q hq m hm with h | ⟨h, _⟩
            · left; omega
            · by_cases e : m = n
              · exact .inr ⟨e, le_of_lt hlt⟩
              · left; omega

/-- The PU whose key is largest, the lowest-numbered of those that tie, is the one found. -/
theorem leastUrgentPu_all8 (key : Pu → Option Nat) (p : Pu) (n : Nat) (h : key p = some n)
    (largest : ∀ q m, key q = some m → m < n ∨ (m = n ∧ p ≤ q)) : leastUrgentPu key all8 = some p := by
  cases e : leastUrgentPu key all8 with
  | none => rw [leastUrgentPu_none] at e; rw [e p (mem_all8 p)] at h; cases h
  | some q =>
    obtain ⟨_, m, h2, h3⟩ := leastUrgentPu_some key all8 all8_rises q e
    have a := h3 p (mem_all8 p) n h
    have b := largest q m h2
    congr 1
    rcases a with a | ⟨a, a'⟩ <;> rcases b with b | ⟨b, b'⟩
    · omega
    · omega
    · omega
    · exact le_antisymm a' b'

end Sys2Proof.Machine
end

