-- ==== Sys2Proof/Laws/Choices.lean ====
section
/-!
SUPPORT. What the Selector's tests and choices answer: eligibility clause by clause, what a pick returns, and that no choice
returns a task of a halted or purging partition.
-/

namespace Sys2Proof.Machine

variable {s : State} {p : Pu} {t : TaskId}

/-! ### The tests, as propositions -/

theorem State.isHandler_iff : s.isHandler t = true ↔ (s.task t).cls = .handler := by simp [State.isHandler]

theorem State.isHandler_false_iff : s.isHandler t = false ↔ (s.task t).cls = .normal := by
  simp [State.isHandler]; cases (s.task t).cls <;> simp

theorem State.optHandler_false_iff {o : Option TaskId} :
    s.optHandler o = false ↔ ∀ u, o = some u → (s.task u).cls ≠ .handler := by
  cases o <;> simp [State.optHandler, State.isHandler]

theorem State.blocked_false_iff {k : Partition} :
    s.blocked k = false ↔ (s.part k).halted = none ∧ (s.part k).purge = none := by
  simp [State.blocked, Option.isSome_eq_false_iff]

theorem Engine.present_iff {e : Engine} : e.present = true ↔ e.st ≠ .offline ∧ e.st ≠ .faulted := by
  unfold Engine.present; cases e.st <;> simp

theorem FrameUnit.dispatching_iff {f : FrameUnit} : f.dispatching = true ↔ f.state = .framing ∨ f.state = .gap := by
  unfold FrameUnit.dispatching; cases f.state <;> simp

theorem State.inPartition_some_iff {k : Partition} : s.inPartition k (some t) = true ↔ (s.task t).partition = k := by
  simp [State.inPartition]

theorem State.allowedBy_iff {m : Option MapEntry} :
    s.allowedBy m t = true ↔ m = some (.part (s.task t).partition) ∨ m = some .opened := by
  unfold State.allowedBy
  rcases m with _ | m
  · simp
  · cases m <;> simp [MapEntry.allows]

/-- While a window is in force, a task is allowed where the map entry is its partition or OPEN. -/
theorem State.mapAllows_iff (h : s.frame.dispatching = true) :
    s.mapAllows p t = true ↔
      (s.frame.activeBank.windows[s.frame.windowIndex]).map[p] = .part (s.task t).partition ∨
        (s.frame.activeBank.windows[s.frame.windowIndex]).map[p] = .opened := by
  have inForce : s.assignment p = some ((s.frame.activeBank.windows[s.frame.windowIndex]).map[p]) := by
    unfold State.assignment FrameUnit.windowInForce; rw [if_pos h]; rfl
  unfold State.mapAllows; rw [inForce, State.allowedBy_iff]; simp

/-- R34 (a) to (d). -/
theorem State.mayRun_iff :
    s.mayRun p t = true ↔
      (s.task t).affinity.getLsbD p.val = true ∧
      ((s.engine p).st ≠ .offline ∧ (s.engine p).st ≠ .faulted) ∧
      (s.frame.state = .framing ∨ s.frame.state = .gap) ∧
      (s.part (s.task t).partition).halted = none ∧ (s.part (s.task t).partition).purge = none := by
  unfold State.mayRun
  simp only [Bool.and_eq_true, Engine.present_iff, FrameUnit.dispatching_iff, Bool.not_eq_true', State.blocked_false_iff,
    and_assoc]

/-- R34 (a) to (e). -/
theorem State.eligibleBase_iff :
    s.eligibleBase p t = true ↔
      (s.task t).affinity.getLsbD p.val = true ∧
      ((s.engine p).st ≠ .offline ∧ (s.engine p).st ≠ .faulted) ∧
      (s.frame.state = .framing ∨ s.frame.state = .gap) ∧
      (s.part (s.task t).partition).halted = none ∧ (s.part (s.task t).partition).purge = none ∧
      ((s.frame.activeBank.windows[s.frame.windowIndex]).map[p] = .part (s.task t).partition ∨
        (s.frame.activeBank.windows[s.frame.windowIndex]).map[p] = .opened) := by
  unfold State.eligibleBase
  rw [Bool.and_eq_true, State.mayRun_iff]
  simp only [and_assoc]
  constructor
  · rintro ⟨a, b, c, d, e, f, g⟩
    exact ⟨a, b, c, d, e, f, (State.mapAllows_iff (FrameUnit.dispatching_iff.2 d)).1 g⟩
  · rintro ⟨a, b, c, d, e, f, g⟩
    exact ⟨a, b, c, d, e, f, (State.mapAllows_iff (FrameUnit.dispatching_iff.2 d)).2 g⟩

/-- Where no re-evaluation of the PU is outstanding, a place request judges the window in force. -/
theorem State.placeAssignment_inForce (h : s.formerEntries p = []) : s.placeAssignment p = s.assignment p := by
  unfold State.placeAssignment; rw [h]

/-- A place request finds no task eligible on a PU whose outstanding re-evaluation had no window before it. -/
theorem State.placeAssignment_none (h : none ∈ s.formerEntries p) : s.placeAssignment p = none := by
  unfold State.placeAssignment
  split
  · rename_i e; rw [e] at h; cases h
  · rename_i former later e
    rw [e, List.mem_cons] at h
    split
    · rfl
    · rename_i n; simp only [List.contains_iff_mem] at n
      exact (h.resolve_right n).symm

theorem Request.formerOf_iff {r : Request} {former : Option MapEntry} :
    r.formerOf p = some former ↔ r = .window p former := by
  unfold Request.formerOf
  split
  · split
    · rename_i h; subst h; simp
    · rename_i h; simp [h]
  · rename_i h; simpa using h p former

theorem State.mem_formerEntries {former : Option MapEntry} :
    former ∈ s.formerEntries p ↔ .window p former ∈ s.requests.flatten := by
  unfold State.formerEntries
  simp [List.mem_filterMap, Request.formerOf_iff]

/-- Of several outstanding re-evaluations of the PU the oldest counts (log 30). -/
theorem State.placeAssignment_oldest {before after : List Request} {former : Option MapEntry}
    (h : s.requests.flatten = before ++ .window p former :: after) (first : ∀ e, .window p e ∉ before)
    (later : .window p none ∉ after) : s.placeAssignment p = former := by
  have none_before : before.filterMap (Request.formerOf p) = [] := by
    rw [List.filterMap_eq_nil_iff]
    intro r hr
    cases e : r.formerOf p with
    | none => rfl
    | some former => exact absurd (Request.formerOf_iff.1 e ▸ hr) (first former)
  have none_later : none ∉ after.filterMap (Request.formerOf p) := by
    rw [List.mem_filterMap]
    rintro ⟨r, hr, e⟩
    exact later (Request.formerOf_iff.1 e ▸ hr)
  have own : Request.formerOf p (.window p former) = some former := Request.formerOf_iff.2 rfl
  unfold State.placeAssignment State.formerEntries
  rw [h, List.filterMap_append, none_before, List.nil_append, List.filterMap_cons_some own]
  simp [none_later]

theorem State.swreq_switching {sw : Switch} (h : (s.engine p).st = .switching sw) : s.swreq p = true := by
  unfold State.swreq; rw [show s.engines[p] = s.engine p from rfl, h]

/-! ### Picks (R38, R39) -/

theorem State.pickBelow_none_iff {x : Extra} {bound : Nat} :
    s.pickBelow p x bound = none ↔
      ∀ (k : Partition) (q : Priority) (u : TaskId), q.val < bound → u ∈ s.queueView x k q →
        s.eligibleForPick p u = false := by
  unfold State.pickBelow
  rw [List.findSome?_eq_none_iff]
  constructor
  · intro h k q u hq hu
    have at_q := h q (mem_all8 q)
    rw [if_pos hq, List.findSome?_eq_none_iff] at at_q
    have at_k := at_q k (mem_all8 k)
    rw [List.find?_eq_none] at at_k
    simpa using at_k u hu
  · intro h q _
    split
    · rw [List.findSome?_eq_none_iff]
      intro k _
      rw [List.find?_eq_none]
      intro u hu; simp [h k q u ‹_› hu]
    · rfl

theorem State.pickBelow_some {x : Extra} {bound : Nat} (h : s.pickBelow p x bound = some t) :
    ∃ (k : Partition) (q : Priority) (before after : List TaskId), q.val < bound ∧
      s.queueView x k q = before ++ t :: after ∧ s.eligibleForPick p t = true ∧
      (∀ u ∈ before, s.eligibleForPick p u = false) ∧
      ∀ (k' : Partition) (q' : Priority) (u : TaskId), u ∈ s.queueView x k' q' → s.eligibleForPick p u = true →
        q < q' ∨ (q = q' ∧ k ≤ k') := by
  unfold State.pickBelow at h
  obtain ⟨q, h1, h2⟩ := (all8_findSome _ _).1 h
  split at h1
  · rename_i hq
    obtain ⟨k, h3, h4⟩ := (all8_findSome _ _).1 h1
    obtain ⟨h5, before, after, h6, h7⟩ := List.find?_eq_some_iff_append.1 h3
    refine ⟨k, q, before, after, hq, h6, h5, fun u hu => by simpa using h7 u hu, ?_⟩
    intro k' q' u hu he
    rcases lt_trichotomy q q' with g | g | g
    · exact .inl g
    · refine .inr ⟨g, not_lt.1 fun g' => ?_⟩
      subst g
      have none_k := h4 k' g'
      rw [List.find?_eq_none] at none_k
      exact none_k u hu he
    · have none_q := h2 q' g
      rw [if_pos (by have : q'.val < q.val := g; omega), List.findSome?_eq_none_iff] at none_q
      have none_k := none_q k' (mem_all8 k')
      rw [List.find?_eq_none] at none_k
      exact absurd he (none_k u hu)
  · cases h1

/-! ### A choice never returns a task of a halted or purging partition -/

theorem Moves.blocked {s' : State} (h : Moves s s') (k : Partition) : s'.blocked k = s.blocked k := by
  simp [State.blocked, h.halted, h.purge]

theorem State.firstRunnable_not_blocked {x : Extra} (h : s.firstRunnable p x = some t) :
    s.blocked (s.task t).partition = false := by
  unfold State.firstRunnable at h; split at h
  · simpa [State.runnable] using List.find?_some h
  · cases h

theorem State.eligibleForPick_not_blocked (h : s.eligibleForPick p t = true) :
    s.blocked (s.task t).partition = false := by
  simp [State.eligibleForPick, State.eligibleBase, State.mayRun] at h; tauto

theorem State.takenUp_not_blocked (h : s.takenUp p t = true) : s.blocked (s.task t).partition = false := by
  unfold State.takenUp at h; split at h
  · simp at h; tauto
  · simp [State.eligibleBase, State.mayRun] at h; tauto

@[simp] theorem State.makeReady_partition (s : State) (t u : TaskId) (e : QueueEnd) :
    ((s.makeReady t e).task u).partition = (s.task u).partition := by
  simp only [State.makeReady, State.enterQueue_task, State.modTask_eq, State.task_setTask]
  split
  · rename_i h; rw [h]
  · rfl

theorem unwindStack_not_blocked (p : Pu) (u : Option TaskId) (x : Extra) (l : List TaskId) :
    ∀ (s : State) (back : List TaskId) (t : TaskId),
      (∀ h, u = some h → s.blocked (s.task h).partition = false) →
      (unwindStack p u x l s back).chosen = some t → s.blocked (s.task t).partition = false := by
  induction l with
  | nil =>
    intro s back t hu h; unfold unwindStack at h; split at h
    · cases h; exact hu _ rfl
    · obtain ⟨_, _, _, _, _, _, h, _⟩ := State.pickBelow_some h
      exact State.eligibleForPick_not_blocked h
  | cons T l ih =>
    intro s back t hu h; unfold unwindStack at h; split at h
    · exact hu _ h
    · split at h
      · rename_i hT; cases h
        have := State.takenUp_not_blocked hT
        simpa [State.blocked, State.part] using this
      · have m : Moves s ((s.setStack p l).makeReady T .head) := .makeReady _ _ (.setStack _ _ (.refl _))
        have same : ∀ v, (((s.setStack p l).makeReady T .head).task v).partition = (s.task v).partition := by
          intro v; rw [State.makeReady_partition]; rfl
        have := ih _ _ t (fun v e => by rw [same, m.blocked]; exact hu v e) h
        rwa [same, m.blocked] at this

theorem State.unwind_not_blocked {o : Option TaskId} {x : Extra} (h : (s.unwind p o x).chosen = some t) :
    s.blocked (s.task t).partition = false := by
  unfold State.unwind at h; dsimp only at h
  split at h
  · exact unwindStack_not_blocked _ _ _ _ _ _ _ (fun h e => State.firstRunnable_not_blocked e) h
  · split at h
    · exact State.firstRunnable_not_blocked h
    · split at h
      · rename_i hT; cases h; exact State.takenUp_not_blocked hT
      · exact unwindStack_not_blocked _ _ _ _ _ _ _ (fun h e => State.firstRunnable_not_blocked e) h

/-! ### The end of a purge (R46) -/

theorem State.othersFree_iff {k : Partition} {g : Purge} :
    s.othersFree k g = true ↔
      ∀ t, g.deferred ≠ some t → ¬ ((s.task t).state ≠ .free ∧ (s.task t).partition = k) := by
  unfold State.othersFree
  rw [List.all_eq_true]
  constructor
  · intro h t hd ⟨h1, h2⟩
    have := h t (List.mem_finRange t)
    simp at this; tauto
  · intro h t _
    have := h t
    simp at *; tauto

theorem State.deferredLive_none_iff {k : Partition} {g : Purge} :
    s.deferredLive k g = none ↔
      ∀ t, g.deferred = some t → ¬ ((s.task t).state ≠ .free ∧ (s.task t).partition = k) := by
  unfold State.deferredLive
  cases g.deferred <;> simp

theorem State.deferredLive_some {k : Partition} {g : Purge} (h : g.deferred = some t)
    (h' : (s.task t).state ≠ .free ∧ (s.task t).partition = k) : s.deferredLive k g = some t := by
  unfold State.deferredLive
  rw [h]; dsimp only; rw [if_pos h']

end Sys2Proof.Machine
end

