-- ==== Sys2Proof/Laws/Engines.lean ====
section
/-!
SUPPORT. What one engine's operations can do, said once: `Local p s s'`. They leave the channels, the Delay List and the
conditions alone, every other engine, and the partition and class of every task. Then what the engine itself is after a
claim, a retarget and a switch, and what a request handed to several engines in any order does.
-/

namespace Sys2Proof.Machine

structure Local (p : Pu) (s s' : State) : Prop where
  channels : s'.channels = s.channels
  delayList : s'.delayList = s.delayList
  partition : ∀ t, (s'.task t).partition = (s.task t).partition
  cls : ∀ t, (s'.task t).cls = (s.task t).cls
  engine : ∀ r, r ≠ p → s'.engine r = s.engine r
  conds : s'.conds = s.conds

/-- READY-head has the lowest rank: it replaces nothing (R58). -/
theorem State.requestDest_readyHead (s : State) (p : Pu) : s.requestDest p .readyHead = s := by
  unfold State.requestDest; split
  · rename_i old _; cases old <;> simp [Dest.rank]
  · rfl

namespace Local

variable {p : Pu} {a s : State}

theorem refl : Local p s s := ⟨rfl, rfl, fun _ => rfl, fun _ => rfl, fun _ _ => rfl, rfl⟩

theorem trans {b : State} (h : Local p a s) (g : Local p s b) : Local p a b where
  channels := g.channels.trans h.channels
  delayList := g.delayList.trans h.delayList
  partition t := (g.partition t).trans (h.partition t)
  cls t := (g.cls t).trans (h.cls t)
  engine r hr := (g.engine r hr).trans (h.engine r hr)
  conds := g.conds.trans h.conds

/-! ### Primitive updates -/

theorem setTask (t : TaskId) (r : TaskRecord) (h : Local p a s) (h1 : r.partition = (s.task t).partition)
    (h2 : r.cls = (s.task t).cls) : Local p a (s.setTask t r) :=
  h.trans ⟨rfl, rfl, fun u => by rw [State.task_setTask]; split <;> simp_all,
    fun u => by rw [State.task_setTask]; split <;> simp_all, fun _ _ => rfl, rfl⟩

theorem enterQueue (t : TaskId) (e : QueueEnd) (h : Local p a s) : Local p a (s.enterQueue t e) := by
  refine h.trans ?_
  unfold State.enterQueue; dsimp only; split <;> exact ⟨rfl, rfl, fun _ => rfl, fun _ => rfl, fun _ _ => rfl, rfl⟩

theorem leaveQueue (t : TaskId) (h : Local p a s) : Local p a (s.leaveQueue t) := by
  refine h.trans ?_
  unfold State.leaveQueue; dsimp only; split <;> exact ⟨rfl, rfl, fun _ => rfl, fun _ => rfl, fun _ _ => rfl, rfl⟩

theorem setEngine (e : Engine) (h : Local p a s) : Local p a (s.setEngine p e) :=
  h.trans ⟨rfl, rfl, fun _ => rfl, fun _ => rfl,
    fun r hr => by rw [State.engine_setEngine, if_neg (Ne.symm hr)], rfl⟩

theorem modSwitch (f : Switch → Switch) (h : Local p a s) : Local p a (s.modSwitch p f) := setEngine _ h

theorem request (l : List Request) (h : Local p a s) : Local p a (s.request l) :=
  h.trans ⟨State.request_channels .., State.request_delayList .., fun _ => by simp, fun _ => by simp, fun _ _ => by simp,
    State.request_conds ..⟩

theorem makeReady (t : TaskId) (e : QueueEnd) (h : Local p a s) : Local p a (s.makeReady t e) :=
  enterQueue _ _ (h.setTask _ _ rfl rfl)

/-! ### Claims, stacks and choices -/

theorem claimFor (t : TaskId) (h : Local p a s) : Local p a (s.claimFor p t) :=
  setEngine _ ((h.leaveQueue t).setTask _ _ rfl rfl)

theorem takeClaim (o : Option TaskId) (h : Local p a s) : Local p a (s.takeClaim p o) := by
  cases o
  · exact h
  · exact claimFor _ h

theorem returnClaim (h : Local p a s) : Local p a (s.returnClaim p) := by
  unfold State.returnClaim; split
  · exact makeReady _ _ (setEngine _ h)
  · exact h

theorem retarget (t : TaskId) (h : Local p a s) : Local p a (s.retarget p t) := by
  unfold State.retarget; split
  · exact request _ (claimFor _ (returnClaim h))
  · exact claimFor _ h

theorem makeAllReady (l : List TaskId) :
    ∀ {s : State}, Local p a s → Local p a (l.foldl (fun s t => s.makeReady t .head) s) := by
  induction l with
  | nil => exact id
  | cons x l ih => intro s h; exact ih (h.makeReady x .head)

theorem emptyStack (h : Local p a s) : Local p a (s.emptyStack p) := makeAllReady _ (setEngine _ h)

theorem unwindStack (u : Option TaskId) (x : Extra) (l : List TaskId) :
    ∀ {s : State} (back : List TaskId), Local p a s → Local p a (Sys2Proof.Machine.unwindStack p u x l s back).st := by
  induction l with
  | nil => intro s back h; unfold Sys2Proof.Machine.unwindStack; split <;> exact h
  | cons T l ih =>
    intro s back h; unfold Sys2Proof.Machine.unwindStack; split
    · exact h
    · split
      · exact setEngine _ h
      · exact ih _ (makeReady _ _ (setEngine _ h))

theorem unwind (o : Option TaskId) (x : Extra) (h : Local p a s) : Local p a (s.unwind p o x).st := by
  unfold State.unwind; dsimp only; split
  · exact unwindStack _ _ _ _ h
  · split
    · exact h
    · split
      · exact h
      · exact unwindStack _ _ _ _ h

/-! ### Switches -/

theorem beginSwitch (why : SwitchReason) (d : Dest) (h : Local p a s) : Local p a (s.beginSwitch p why d) :=
  setEngine _ h

/-- READY-head replaces no pending destination, so no re-evaluation follows it. -/
theorem askOut_readyHead (why : SwitchReason) (h : Local p a s) : Local p a (s.askOut p why .readyHead) := by
  unfold State.askOut; split
  · exact request _ (takeClaim _ (unwind _ _ (beginSwitch _ _ h)))
  · rw [State.requestDest_readyHead]; exact h
  · exact h

theorem withdraw (h : Local p a s) : Local p a (s.withdraw p) := by
  unfold State.withdraw; split
  · split
    · exact setEngine _ h
    · exact h
  · exact h

theorem newChoice (h : Local p a s) : Local p a (s.newChoice p) := by
  unfold State.newChoice; split
  · dsimp only
    have passed : ∀ (c : Choice), Local p a c.st →
        Local p a (if c.passedStanding = true then c.st.modSwitch p (Switch.setDest .readyHead) else c.st) := by
      intro c hc; split
      · exact modSwitch _ hc
      · exact hc
    apply request
    split
    · split
      · exact withdraw (passed _ (unwind _ _ h))
      · exact claimFor _ (passed _ (unwind _ _ h))
    · exact passed _ (unwind _ _ h)
  · exact h

theorem haltEngine (k : Partition) (h : Local p a s) : Local p a (s.haltEngine k p) := by
  have asked : Local p a (if s.inPartition k (s.engine p).runningTask = true then s.askOut p .halt .readyHead else s) := by
    split
    · exact askOut_readyHead _ h
    · exact h
  unfold State.haltEngine; dsimp only
  generalize (if s.inPartition k (s.engine p).runningTask = true then s.askOut p .halt .readyHead else s) = x at asked
  split
  · split
    · split
      · exact request _ (newChoice (returnClaim asked))
      · exact newChoice (returnClaim asked)
    · exact asked
  · exact asked

theorem stopEngine (h : Local p a s) : Local p a (s.stopEngine p) := by
  unfold State.stopEngine; split
  · exact request _ (emptyStack (beginSwitch _ _ h))
  · refine request _ (emptyStack ?_)
    unfold State.dropPush; split
    · exact modSwitch _ (returnClaim h)
    · exact returnClaim h
  · exact h

end Local

/-! ### The engine after one of its operations -/

section
variable (s : State) (p : Pu) (t : TaskId)

theorem State.setEngine_same : s.setEngine p (s.engine p) = s := by
  simp only [State.setEngine]; rw [show s.engine p = s.engines[p.val] from rfl, put_get]

theorem State.setEngine_setEngine (a b : Engine) : (s.setEngine p a).setEngine p b = s.setEngine p b := by
  simp only [State.setEngine, put_put]

theorem State.claimFor_engine {sw : Switch} (h : (s.engine p).st = .switching sw) :
    (s.claimFor p t).engine p = { s.engine p with st := .switching { sw with claimed := some t } } := by
  simp [State.claimFor, State.modSwitch, h]

theorem State.retarget_engine {sw : Switch} (h : (s.engine p).st = .switching sw) :
    (s.retarget p t).engine p = { s.engine p with st := .switching { sw with claimed := some t } } := by
  unfold State.retarget
  have hc : (s.engine p).claimedTask = sw.claimed := by simp [Engine.claimedTask, h]
  rw [hc]
  cases hs : sw.claimed with
  | none => exact State.claimFor_engine s p t h
  | some o =>
    have returned : (s.returnClaim p).engine p = { s.engine p with st := .switching { sw with claimed := none } } := by
      simp [State.returnClaim, hc, hs, State.makeReady, State.modSwitch, h]
    simp only [State.request_engine_read]
    rw [State.claimFor_engine _ p t (sw := { sw with claimed := none }) (by rw [returned])]
    rw [returned]

end

/-- A choice of work may shorten the stack and changes nothing else of its engine. -/
theorem unwindStack_engineState (p : Pu) (u : Option TaskId) (x : Extra) (l : List TaskId) :
    ∀ (s : State) (back : List TaskId), ((unwindStack p u x l s back).st.engine p).st = (s.engine p).st := by
  induction l with
  | nil => intro s back; unfold unwindStack; split <;> rfl
  | cons T l ih =>
    intro s back; unfold unwindStack; split
    · rfl
    · split
      · simp
      · rw [ih]; simp [State.makeReady]

theorem State.unwind_engineState (s : State) (p : Pu) (o : Option TaskId) (x : Extra) :
    ((s.unwind p o x).st.engine p).st = (s.engine p).st := by
  unfold State.unwind; dsimp only; split
  · exact unwindStack_engineState ..
  · split
    · rfl
    · split
      · rfl
      · exact unwindStack_engineState ..

/-- A RUNNING PU that is asked out is SWITCHING, and claims no task of a halted or purging partition. -/
theorem State.switchOut_engine {s : State} {p : Pu} {t : TaskId} {why : SwitchReason} {d : Dest}
    (h : (s.engine p).st = .running t) :
    ∃ claimed, ((s.switchOut p why d).engine p).st =
        .switching ⟨why, some ⟨t, d⟩, claimed, s.frame.handoverLimit, s.frame.handoverLimit⟩ ∧
      ∀ c, claimed = some c → s.blocked (s.task c).partition = false := by
  let b := s.beginSwitch p why d
  have hb : (b.engine p).st =
      .switching ⟨why, some ⟨t, d⟩, none, s.frame.handoverLimit, s.frame.handoverLimit⟩ := by
    simp [b, State.beginSwitch, h]
  have mb : Moves s b := .beginSwitch _ _ _ (.refl _)
  have lb : Local p s b := .beginSwitch _ _ .refl
  have hu : ((b.unwind p none .none).st.engine p).st = _ := (b.unwind_engineState p none .none).trans hb
  refine ⟨(b.unwind p none .none).chosen, ?_, ?_⟩
  · show ((State.request _ ((b.unwind p none .none).st.takeClaim p (b.unwind p none .none).chosen)).engine p).st = _
    rw [State.request_engine_read]
    cases e : (b.unwind p none .none).chosen with
    | none => exact hu
    | some c => rw [State.takeClaim_some, State.claimFor_engine _ _ _ hu]
  · intro c e
    have := State.unwind_not_blocked e
    rwa [lb.partition, mb.blocked] at this

/-! ### The deadline timers -/

theorem Engine.timeLeft_iff {e : Engine} {n : BitVec 8} :
    e.timeLeft = some n ↔ ∃ sw, e.st = .switching sw ∧ sw.remaining = n := by
  unfold Engine.timeLeft; cases e.st <;> simp

/-- No running timer has less than `n` units left. -/
theorem State.noneSooner_iff {s : State} {n : BitVec 8} :
    s.noneSooner n = true ↔ ∀ q sw, (s.engine q).st = .switching sw → n ≤ sw.remaining := by
  unfold State.noneSooner
  rw [List.all_eq_true]
  constructor
  · intro h q sw e
    have := h q (mem_all8 q)
    rw [Engine.timeLeft_iff.2 ⟨sw, e, rfl⟩] at this
    simpa using this
  · intro h q _
    split
    · rename_i m e
      obtain ⟨sw, e1, e2⟩ := Engine.timeLeft_iff.1 e
      simpa [← e2] using h q sw e1
    · rfl

/-! ### Tasks made READY one by one -/

theorem State.makeReady_state (s : State) (t u : TaskId) (e : QueueEnd) :
    ((s.makeReady t e).task u).state = if t = u then .ready else (s.task u).state := by
  simp only [State.makeReady, State.enterQueue_task, State.modTask_eq, State.task_setTask]; split <;> rfl

theorem makeAllReady_engine (l : List TaskId) :
    ∀ (s : State) (p : Pu), (l.foldl (fun s t => s.makeReady t .head) s).engine p = s.engine p := by
  induction l with
  | nil => intro s p; rfl
  | cons a l ih => intro s p; rw [List.foldl_cons, ih]; simp [State.makeReady]

theorem makeAllReady_state (l : List TaskId) :
    ∀ (s : State) (u : TaskId), ((l.foldl (fun s t => s.makeReady t .head) s).task u).state =
      if u ∈ l then .ready else (s.task u).state := by
  induction l with
  | nil => intro s u; rfl
  | cons a l ih =>
    intro s u; rw [List.foldl_cons, ih, State.makeReady_state]
    by_cases h : u ∈ l
    · simp [h]
    · by_cases h' : a = u
      · subst h'; simp
      · simp [h, h', Ne.symm h']

/-! ### One request handed to several engines, in a free order (log 6) -/

theorem insertEngine_perm (n : Nat) (p : Pu) (l : List Pu) : (insertEngine n p l).Perm (p :: l) := by
  induction l with
  | nil => exact .refl _
  | cons y ys ih =>
    unfold insertEngine; split
    · exact (ih.cons y).trans (.swap ..)
    · exact .refl _

theorem engineOrder_perm (n : Nat) (l : List Pu) : (engineOrder n l).Perm l := by
  induction l with
  | nil => exact .refl _
  | cons y ys ih => exact (insertEngine_perm ..).trans (ih.cons y)

/-- Each engine of the list ends as its own turn left it, taken from a state in which it stood as at the start; the others
stand as they did. -/
theorem eachEngine_spec (act : Pu → State → State) (isLocal : ∀ p s, Local p s (act p s)) (moves : ∀ p s, Moves s (act p s))
    (l : List Pu) : l.Nodup → ∀ s : State,
      let s' := l.foldl (fun s p => act p s) s
      Moves s s' ∧ s'.channels = s.channels ∧ s'.delayList = s.delayList ∧ s'.conds = s.conds ∧
      (∀ t, (s'.task t).partition = (s.task t).partition) ∧
      (∀ q, q ∉ l → s'.engine q = s.engine q) ∧
      (∀ q, q ∈ l → ∃ x, Moves s x ∧ x.engine q = s.engine q ∧
        (∀ t, (x.task t).partition = (s.task t).partition) ∧ s'.engine q = (act q x).engine q) := by
  induction l with
  | nil => intro _ s; exact ⟨.refl _, rfl, rfl, rfl, fun _ => rfl, fun _ _ => rfl, fun q h => by cases h⟩
  | cons p l ih =>
    intro nd s
    rw [List.nodup_cons] at nd
    obtain ⟨a, b, c, d, e, f, g⟩ := ih nd.2 (act p s)
    have lo := isLocal p s
    have mo := moves p s
    refine ⟨mo.trans a, b.trans lo.channels, c.trans lo.delayList, d.trans lo.conds,
      fun t => (e t).trans (lo.partition t), ?_, ?_⟩
    · intro q hq
      rw [List.mem_cons, not_or] at hq
      rw [List.foldl_cons, f q hq.2, lo.engine q hq.1]
    · intro q hq
      rcases List.mem_cons.1 hq with h | h
      · subst h; exact ⟨s, .refl _, rfl, fun _ => rfl, f q nd.1⟩
      · obtain ⟨x, h1, h2, h3, h4⟩ := g q h
        have other : q ≠ p := fun e => nd.1 (e ▸ h)
        exact ⟨x, mo.trans h1, h2.trans (lo.engine q other), fun t => (h3 t).trans (lo.partition t), h4⟩

end Sys2Proof.Machine
end

