-- ==== Sys2Proof/Laws/Words.lean ====
section
/-!
SUPPORT. What the argument decoders of Machine/Operands.lean give for argument words in range, and the bits of the condition
word, of a flag set and of a count.
-/

namespace Sys2Proof.Machine

/-! ### Bounded values -/

theorem asFin_of_lt {n v : Nat} (h : v < n) : asFin n v = some ⟨v, h⟩ := by simp [asFin, h]

theorem asFin_some {n : Nat} (x : Fin n) {v : Nat} (h : v = x.val) : asFin n v = some x := by
  subst h; simp [asFin]

theorem asFin_none {n v : Nat} (h : n ≤ v) : asFin n v = none := by simp [asFin]; omega

theorem asFin_eq_some {n v : Nat} (x : Fin n) : asFin n v = some x ↔ v = x.val := by
  constructor
  · intro h; unfold asFin at h; split at h <;> cases h; rfl
  · exact asFin_some x

theorem shortArg_some (x : Word) (h : x.toNat ≤ 65535) : shortArg x = some (x.setWidth 16) := by
  unfold shortArg; rw [if_pos (by omega)]

theorem low_toNat (w : Word) (n : Nat) (h : w.toNat = n) : low n = w := by
  apply BitVec.eq_of_toNat_eq; unfold low; subst h; simp

/-- A value that was read at a narrower width is answered as the word it came in. -/
theorem low_setWidth {k : Nat} (w : Word) (h : w.toNat < 2 ^ k) : low (w.setWidth k).toNat = w :=
  low_toNat _ _ (by simp [Nat.mod_eq_of_lt h])

theorem satInc_16 (x : BitVec 16) : satInc x = if x = 65535 then 65535 else x + 1 := by
  unfold satInc
  have full : BitVec.allOnes 16 = 65535 := by decide
  rw [full]; split
  · assumption
  · rfl

/-! ### The arguments of one command -/

variable {c : Captured}

theorem channelArg_some {i : Fin 6} {ch : ChannelId} (h : (c.arg i).toNat = ch.val) : channelArg (c.arg i) = some ch :=
  asFin_some ch h

theorem priorityArgs_some (t : TaskId) (q : Priority) (h : (c.arg 0).toNat = t.val) (h2 : (c.arg 1).toNat = q.val) :
    priorityArgs c = some (t, q) := by
  simp [priorityArgs, taskArg, asFin_some t h, asFin_some q h2]

theorem affinityArgs_some (t : TaskId) (h : (c.arg 0).toNat = t.val) (h2 : setArg (c.arg 1) ≠ 0) :
    affinityArgs c = some (t, setArg (c.arg 1)) := by
  simp only [affinityArgs, taskArg, asFin_some t h, if_neg h2]; rfl

theorem budgetArgs_some (t : TaskId) (a : BudgetAction) (h : (c.arg 0).toNat = t.val) (h1 : (c.arg 1).toNat ≤ 65535)
    (h2 : (c.arg 2).toNat ≤ 65535) (h3 : (c.arg 3).toNat = a.code)
    (h4 : (c.arg 1).toNat = 0 ∨ (c.arg 2).toNat ≤ (c.arg 1).toNat) :
    budgetArgs c = some ⟨t, (c.arg 1).setWidth 16, (c.arg 2).setWidth 16, a⟩ := by
  have ha : actionOf (c.arg 3).toNat = some a := by rw [h3]; cases a <;> rfl
  unfold budgetArgs taskArg
  rw [asFin_some t h, shortArg_some _ h1, shortArg_some _ h2, ha]
  simp [Nat.mod_eq_of_lt (show (c.arg 1).toNat < 65536 by omega),
    Nat.mod_eq_of_lt (show (c.arg 2).toNat < 65536 by omega)]
  omega

theorem postArgs_some (ch : ChannelId) (h : (c.arg 0).toNat = ch.val) (h16 : 16 ≤ ch.val) (h1 : 1 ≤ (c.arg 1).toNat)
    (h2 : (c.arg 1).toNat ≤ 255) : postArgs c = some (ch, (c.arg 1).setWidth 8) := by
  unfold postArgs channelArg positiveByteArg byteArg
  rw [asFin_some ch h, if_neg (by omega), if_pos (by omega)]
  simp; omega

theorem waitArgs_some {ch : ChannelId} {t : BitVec 32} (h1 : (c.arg 1).toNat = ch.val)
    (h2 : (c.arg 2).toNat = t.toNat) (h3 : t.toNat ≤ 16777215) : waitArgs c = some (ch, t) := by
  unfold waitArgs; rw [channelArg_some h1]
  have same : (c.arg 2).setWidth 32 = t := by apply BitVec.eq_of_toNat_eq; simp [h2]; omega
  have bound : t.toNat ≤ Config.maxDelay := h3
  simp_all [ticksArg]

theorem delayArgs_some {t : BitVec 32} (h2 : (c.arg 1).toNat = t.toNat) (h0 : 1 ≤ t.toNat) (h3 : t.toNat ≤ 16777215) :
    delayArgs c = some t := by
  unfold delayArgs
  have same : (c.arg 1).setWidth 32 = t := by apply BitVec.eq_of_toNat_eq; simp [h2]; omega
  have bound : t.toNat ≤ Config.maxDelay := h3
  have positive : ¬ t.toNat = 0 := by omega
  simp_all [ticksArg]

theorem mapEntryOf_code {v : Nat} {m : MapEntry} (h : v = m.code) : mapEntryOf v = some m := by
  subst h
  cases m with
  | part k => unfold mapEntryOf; rw [show asFin 8 (MapEntry.part k).code = some k from asFin_some k rfl]
  | opened => rfl
  | idle => rfl

theorem mapArg_some {x : Word} {m : Vector MapEntry 8} (h : ∀ n : Pu, bits x (8 * n.val) 8 = (m[n]).code) :
    mapArg x = some m := by
  unfold mapArg
  rw [show bits x 0 8 = _ from h 0, show bits x 8 8 = _ from h 1, show bits x 16 8 = _ from h 2,
    show bits x 24 8 = _ from h 3, show bits x 32 8 = _ from h 4, show bits x 40 8 = _ from h 5,
    show bits x 48 8 = _ from h 6, show bits x 56 8 = _ from h 7]
  simp only [mapEntryOf_code rfl]
  show some _ = some m
  congr 1
  ext i hi
  have : i = 0 ∨ i = 1 ∨ i = 2 ∨ i = 3 ∨ i = 4 ∨ i = 5 ∨ i = 6 ∨ i = 7 := by omega
  rcases this with h | h | h | h | h | h | h | h <;> subst h <;> rfl

/-- A window that WRITE_WINDOW stores is never empty. -/
theorem windowArgs_length {a : WindowIndex × Window} (h : windowArgs c = some a) : a.2.length ≠ 0 := by
  unfold windowArgs at h
  simp only [Option.bind_eq_bind, Option.bind_eq_some_iff] at h
  obtain ⟨i, _, l, h2, m, _, h4⟩ := h
  cases h4
  unfold positiveShortArg shortArg at h2
  split at h2
  · cases h2
  · split at h2
    · cases h2
      intro e; have := congrArg BitVec.toNat e; simp at this; omega
    · cases h2

/-- The limits that CONFIGURE stores are never 0. -/
theorem configArgs_limits {a : ConfigArgs} (h : configArgs c = some a) : a.handoverLimit ≠ 0 ∧ a.gapLimit ≠ 0 := by
  unfold configArgs at h
  simp only [Option.bind_eq_bind, Option.bind_eq_some_iff] at h
  obtain ⟨i, _, l, h2, m, _, g, h5, h4⟩ := h
  cases h4
  constructor
  · unfold positiveByteArg byteArg at h2
    split at h2
    · cases h2
    · split at h2
      · cases h2
        intro e; have := congrArg BitVec.toNat e; simp at this; omega
      · cases h2
  · unfold positiveShortArg shortArg at h5
    split at h5
    · cases h5
    · split at h5
      · cases h5
        intro e; have := congrArg BitVec.toNat e; simp at this; omega
      · cases h5

/-! ### Condition bits -/

theorem Cond.bit_lt (flag : Cond) : flag.bit < 17 := by cases flag <;> simp [Cond.bit]; omega

theorem Cond.mask_bit (flag : Cond) (n : Nat) : flag.mask.getLsbD n = decide (n = flag.bit) := by
  have hb := flag.bit_lt
  unfold Cond.mask
  generalize flag.bit = b at hb
  rw [BitVec.getLsbD_shiftLeft]
  by_cases h : n = b
  · subst h; simp [hb]
  · by_cases h' : n < b
    · simp [h, h']
    · simp [h]; intro _ _; omega

theorem flagsArg_bit (w : Word) (i : Nat) (h : i < 17) : (flagsArg w).getLsbD i = w.getLsbD i := by simp [flagsArg, h]

theorem low_flags (w : BitVec 17) : low w.toNat = w.setWidth 64 := by
  apply BitVec.eq_of_toNat_eq; unfold low; simp

/-- ATTN, bit by bit. -/
theorem State.attn_iff (s : State) :
    s.attn = true ↔ ∃ i : Fin 17, s.conds.word.getLsbD i.val = true ∧ s.conds.enable.getLsbD i.val = true := by
  unfold State.attn
  rw [bne_iff_ne]
  constructor
  · intro h
    by_contra g
    apply h
    apply BitVec.eq_of_getLsbD_eq
    intro i hi
    rw [BitVec.getLsbD_and]
    by_contra e
    have both : (s.conds.word.getLsbD i && s.conds.enable.getLsbD i) = true := by simpa using e
    rw [Bool.and_eq_true] at both
    exact g ⟨⟨i, hi⟩, both⟩
  · rintro ⟨i, h1, h2⟩ e
    have := congrArg (fun x => BitVec.getLsbD x i.val) e
    rw [BitVec.getLsbD_and, h1, h2] at this; simp at this

/-- The one bit of an event line in the word of former levels. -/
theorem line_bit (n m : Line) : (1#16 <<< n.val).getLsbD m.val = decide (m = n) := by revert n m; decide

end Sys2Proof.Machine
end

