-- ==== Sys2Proof/Laws/Frames.lean ====
section
/-!
SUPPORT. What a tick does in FRAMING and in GAP, and that a frame start and the warm reset leave a lawful Frame Unit.
-/

namespace Sys2Proof.Machine

/-! ### A tick the Frame Unit takes (R158, R159) -/

theorem State.takeFrameTick_framing (s : State) (h : s.frame.state = .framing) :
    s.takeFrameTick =
      let held : State := { s with frame := { s.frame with ticksRemaining := s.frame.ticksRemaining - 1 } }
      if s.frame.ticksRemaining - 1 = 0 then held.windowEnds else held := by
  unfold State.takeFrameTick
  split
  all_goals first | rfl | (rename_i e; rw [h] at e; cases e)

theorem State.takeFrameTick_gap (s : State) (h : s.frame.state = .gap) :
    s.takeFrameTick =
      let held : State := { s with frame := { s.frame with gapTicks := s.frame.gapTicks + 1 } }
      if s.frame.gapTicks + 1 = s.frame.gapLimit then (held.latch .syncLost).frameStart else held := by
  unfold State.takeFrameTick
  split
  all_goals first | rfl | (rename_i e; rw [h] at e; cases e)

/-! ### Lawful Frame Units -/

theorem FrameUnit.bank_lawful {f : FrameUnit} (h : f.Lawful) (id : BankId) : (f.bank id).Lawful := by
  cases id
  · exact h.bankA
  · exact h.bankB

theorem BankId.other_other (id : BankId) : id.other.other = id := by cases id <;> rfl

theorem Bank.default_lawful : ({} : Bank).Lawful := by
  intro i
  have : ({} : Bank).windows[i] = ({} : Window) := by simp
  rw [this]; decide

/-- A frame start is lawful where the bank it makes active has a window and the tick runs. -/
theorem FrameUnit.startFrame_lawful {f : FrameUnit} (h : f.Lawful)
    (hc : f.countdown ≠ 1 → 0 < f.activeBank.count.val) (ht : f.tickPeriod ≠ 0) : f.startFrame.Lawful := by
  have banks : ∀ id, f.startFrame.bank id = f.bank id := by intro id; cases id <;> rfl
  have active : f.startFrame.active = if f.countdown = 1 then f.active.other else f.active := rfl
  have hasWindow : 0 < f.startFrame.activeBank.count.val := by
    unfold FrameUnit.activeBank; rw [banks, active]; split
    · rename_i e; exact h.armedHasWindow (by rw [e]; decide)
    · rename_i e; exact hc e
  refine ⟨h.bankA, h.bankB, fun _ => hasWindow, ?_, fun _ => hasWindow, ?_, ?_, ?_, ?_, ?_, ?_, h.handoverLimit, h.gapLimit⟩
  · intro hcd
    unfold FrameUnit.standbyBank; rw [banks, active]
    by_cases e : f.countdown = 1
    · exfalso; apply hcd
      show (if f.countdown = 0 then 0 else f.countdown - 1) = 0
      rw [e]; rfl
    · rw [if_neg e]
      refine h.armedHasWindow fun e' => hcd ?_
      show (if f.countdown = 0 then 0 else f.countdown - 1) = 0
      rw [if_pos e']
  · intro e; cases e
  · intro e; exact absurd rfl e
  · intro _; exact FrameUnit.bank_lawful h _ 0
  · intro _; rfl
  · rintro (e | e) <;> cases e
  · intro _; exact ht

theorem FrameUnit.startFrame_lawful_running {f : FrameUnit} (h : f.Lawful) (hs : f.state ≠ .stopped) :
    f.startFrame.Lawful :=
  FrameUnit.startFrame_lawful h (fun _ => h.activeHasWindow hs) (h.tickRuns hs)

/-- What SYSTEM_RESET leaves of a lawful Frame Unit is lawful. -/
theorem FrameUnit.warm_lawful {f : FrameUnit} (h : f.Lawful) : f.warm.Lawful :=
  ⟨h.bankA, h.bankB, fun e => absurd rfl e, fun e => absurd rfl e, fun e => (by cases e), fun _ => rfl, fun _ => rfl,
    fun e => (by cases e), fun _ => rfl, fun e => (by rcases e with e | e <;> cases e), fun e => absurd rfl e,
    h.handoverLimit, h.gapLimit⟩

theorem tick_ne {x : BitVec 16} (h' : x ≠ 1) : x - 1 ≠ 0 := by
  intro e; apply h'; have := congrArg (· + 1) e; simpa using this

end Sys2Proof.Machine
end

