-- ==== Sys2Proof/Laws/Settles.lean ====
section
/-!
SUPPORT. What a decision that may answer a port, end a purge or change a channel's units can do, said once:
`Settles s s'`. It leaves the Frame Unit, the violation record, the enable mask, the pins, the queue of commands, every
halt and what BIND, MASK and UNMASK set as they were, and keeps the counts law and the channel law. Every `Moves` is one.
-/

namespace Sys2Proof.Machine

structure Settles (s s' : State) : Prop where
  frame : s'.frame = s.frame
  violation : s'.violation = s.violation
  enable : s'.conds.enable = s.conds.enable
  pins : s'.pins = s.pins
  pending : s'.pending = s.pending
  halted : ∀ k, (s'.part k).halted = (s.part k).halted
  config : ∀ c, (s'.channel c).config = (s.channel c).config
  counts : s.CountsLaw → s'.CountsLaw
  channels : s.ChannelLaw → s'.ChannelLaw

/-- The channel law does not look at the waiters. -/
theorem Channel.lawful_of_setup {c : ChannelId} {r r' : Channel} (h : r'.setup = r.setup) (hr : r.Lawful c) :
    r'.Lawful c := by
  have e := congrArg Channel.edge h
  have m := congrArg Channel.masked h
  have o := congrArg Channel.mode h
  have n := congrArg Channel.pendingCount h
  have g := congrArg Channel.postRights h
  simp only [Channel.setup] at e m o n g
  unfold Channel.Lawful at *
  rw [e, m, o, n, g]
  exact hr

/-- Changing one channel keeps the law if the new record keeps it. -/
theorem State.channelLaw_setChannel (s : State) (c : ChannelId) (r : Channel) (hs : s.ChannelLaw) (hr : r.Lawful c) :
    (s.setChannel c r).ChannelLaw := fun d => by
  rw [State.channel_setChannel]
  split
  · rename_i h; exact h ▸ hr
  · exact hs d

theorem Moves.settles {a s : State} (h : Moves a s) : Settles a s :=
  ⟨h.frame, h.violation, h.enable, h.pins, h.pending, h.halted,
    fun c => show (s.channel c).setup.config = (a.channel c).setup.config from congrArg _ (h.setup c), h.counts,
    fun hl c => Channel.lawful_of_setup (h.setup c) (hl c)⟩

namespace Settles

theorem refl (s : State) : Settles s s := (Moves.refl s).settles

theorem trans {a b c : State} (h : Settles a b) (g : Settles b c) : Settles a c where
  frame := g.frame.trans h.frame
  violation := g.violation.trans h.violation
  enable := g.enable.trans h.enable
  pins := g.pins.trans h.pins
  pending := g.pending.trans h.pending
  halted k := (g.halted k).trans (h.halted k)
  config c := (g.config c).trans (h.config c)
  counts x := g.counts (h.counts x)
  channels x := g.channels (h.channels x)

variable {a s : State}

/-- A decision goes on with a move. -/
theorem moves {b : State} (h : Settles a s) (g : Moves s b) : Settles a b := h.trans g.settles

theorem config_set (c : ChannelId) (r : Channel) (hr : r.config = (s.channel c).config) (d : ChannelId) :
    ((s.setChannel c r).channel d).config = (s.channel d).config := by
  rw [State.channel_setChannel]
  split
  · rename_i e; exact e ▸ hr
  · rfl

/-! ### Ports and purges -/

theorem setPort (p : Pu) (r : Port) (h : Settles a s) : Settles a (s.setPort p r) :=
  h.trans ⟨rfl, rfl, rfl, rfl, rfl, fun _ => rfl, fun _ => rfl, id, id⟩

theorem respond (p : Pu) (st : Status) (oc : OutcomeCode) (sup : Bool) (res : List Word) (h : Settles a s) :
    Settles a (s.respond p st oc sup res) := setPort _ _ h

theorem answer (p : Pu) (res : List Word) (h : Settles a s) : Settles a (s.answer p res) := respond _ _ _ _ _ h

/-- A change of a partition record that keeps its halt and its counts. -/
theorem setPart (k : Partition) (r : PartitionRecord) (hh : r.halted = (s.part k).halted)
    (hm : r.memberCount = (s.part k).memberCount) (hr : r.readyCount = (s.part k).readyCount) (h : Settles a s) :
    Settles a (s.setPart k r) :=
  h.trans ⟨rfl, rfl, rfl, rfl, rfl,
    fun j => by
      rw [State.part_setPart]
      split
      · rename_i e; exact e ▸ hh
      · rfl,
    fun _ => rfl,
    fun hc j => by
      rw [State.part_setPart]
      split
      · rename_i e; subst e; exact ⟨hm.trans (hc k).1, hr.trans (hc k).2⟩
      · exact hc j,
    id⟩

theorem setPurge (k : Partition) (g : Option Purge) (h : Settles a s) :
    Settles a (s.setPart k { s.part k with purge := g }) := setPart _ _ rfl rfl rfl h

theorem endPurge (k : Partition) (g : Purge) (h : Settles a s) : Settles a (s.endPurge k g) := by
  unfold State.endPurge
  dsimp only
  repeat' split
  all_goals first
    | exact (setPurge k _ (answer _ _ h)).moves (.retireTask _ (.refl _))
    | exact (setPurge k _ h).moves (.retireTask _ (.refl _))
    | exact setPurge k _ (answer _ _ h)
    | exact setPurge k _ h

theorem clearPurge (k : Partition) (h : Settles a s) : Settles a (s.clearPurge k) := by
  unfold State.clearPurge
  split
  · split
    · exact setPurge k _ h
    · exact h
  · exact h

theorem settlePurge (k : Partition) (h : Settles a s) : Settles a (s.settlePurge k) := by
  unfold State.settlePurge
  split
  · refine clearPurge k ?_
    split
    · exact endPurge k _ h
    · exact h
  · exact h

theorem unport_halted (p : Pu) (r : PartitionRecord) : (r.unport p).halted = r.halted := by
  unfold PartitionRecord.unport
  split
  · split <;> rfl
  · rfl

theorem unport_members (p : Pu) (r : PartitionRecord) :
    (r.unport p).memberCount = r.memberCount ∧ (r.unport p).readyCount = r.readyCount := by
  unfold PartitionRecord.unport
  split
  · split <;> exact ⟨rfl, rfl⟩
  · exact ⟨rfl, rfl⟩

theorem unportAll (p : Pu) (h : Settles a s) :
    Settles a { s with partitions := s.partitions.map (PartitionRecord.unport p) } :=
  h.trans ⟨rfl, rfl, rfl, rfl, rfl,
    fun k => by
      have : State.part { s with partitions := s.partitions.map (PartitionRecord.unport p) } k = (s.part k).unport p := by
        simp [State.part]
      rw [this, unport_halted],
    fun _ => rfl,
    fun hc k => by
      have : State.part { s with partitions := s.partitions.map (PartitionRecord.unport p) } k = (s.part k).unport p := by
        simp [State.part]
      rw [this, (unport_members p _).1, (unport_members p _).2]
      exact hc k,
    id⟩

theorem endOutstanding (p : Pu) (st : Status) (h : Settles a s) : Settles a (s.endOutstanding p st) := by
  unfold State.endOutstanding
  split
  · exact unportAll p (respond p st .none false [] h)
  · exact h

/-! ### Completion and its uses -/

theorem freeAndSettle (t : TaskId) (h : Settles a s) : Settles a (s.freeAndSettle t) :=
  settlePurge _ (h.moves (.freeTask t (.refl _)))

theorem sendOut (p : Pu) (o : Outgoing) (w : Option Word) (h : Settles a s) : Settles a (s.sendOut p o w) := by
  unfold State.sendOut
  split
  · exact freeAndSettle _ h
  · exact h.moves (.suspendAs _ _ (.storeWord _ _ (.refl _)))
  · exact h.moves (.modTask _ _ (.storeWord _ _ (.refl _)))
  · exact h.moves (.setStack _ _ (.modTask _ _ (.storeWord _ _ (.refl _))))
  · exact h.moves (.makeReady _ _ (.storeWord _ _ (.refl _)))

theorem complete (p : Pu) (sw : Switch) (w : Option Word) (h : Settles a s) : Settles a (s.complete p sw w) := by
  unfold State.complete
  dsimp only
  refine moves ?_ (.request _ (.refl _))
  repeat' split
  all_goals first
    | exact respond _ _ _ _ _ ((sendOut _ _ _ h).moves (.run _ _ (.refl _)))
    | exact respond _ _ _ _ _ (h.moves (.run _ _ (.refl _)))
    | exact (respond _ _ _ _ _ ((sendOut _ _ _ h).moves (.setEngineState _ _ (.refl _)))).moves (.ownChoice _ (.refl _))
    | exact (respond _ _ _ _ _ (h.moves (.setEngineState _ _ (.refl _)))).moves (.ownChoice _ (.refl _))

theorem afterTakeDown (ts : List TaskId) (k : Option Partition) (h : Settles a s) : Settles a (s.afterTakeDown ts k) := by
  unfold State.afterTakeDown
  dsimp only
  split
  · exact settlePurge _ (h.moves (.request _ (.refl _)))
  · exact h.moves (.request _ (.refl _))

theorem expireDeadline (p : Pu) (h : Settles a s) : Settles a (s.expireDeadline p) := by
  unfold State.expireDeadline
  exact afterTakeDown _ _ (endOutstanding _ _ (h.moves (.latch _ (.modEngine _ _ (.takeDown _ _ (.refl _))))))

/-- The expiry row, and with it a step on an empty queue. -/
theorem handoverDeadlineExpiry (p : Pu) (h : Settles a s) :
    ∃ t, execHandoverDeadlineExpiry p s = .next t ∧ Settles a t := by
  refine ⟨_, rfl, ?_⟩
  unfold State.awake
  split
  · exact h
  · dsimp only
    split
    · split
      · exact expireDeadline _ (h.moves (.elapse _ (.refl _)))
      · exact h
    · exact h

theorem idle (h : Settles a s) : ∃ t, execIdle s = .next t ∧ Settles a t := by
  unfold execIdle
  split
  · exact handoverDeadlineExpiry _ h
  · exact ⟨_, rfl, h.moves (.elapse _ (.refl _))⟩

theorem resetPuCommand (p target : Pu) (h : Settles a s) : Settles a (s.resetPuCommand p target) := by
  unfold State.resetPuCommand
  exact afterTakeDown _ _ (answer _ _ (endOutstanding _ _ (h.moves (.takeDown _ _ (.refl _)))))

/-! ### Self commands -/

theorem deliver (p : Pu) (c : Choice) (why : Option SwitchReason) (sup : Bool) (ts : List TaskId) (h : Settles a c.st) :
    Settles a (State.deliver p c why sup ts) := by
  unfold State.deliver
  dsimp only
  refine moves ?_ (.request _ (.refl _))
  split
  · exact respond _ _ _ _ _ (h.moves (.run _ _ (.refl _)))
  · exact respond _ _ _ _ _ (h.moves (.setEngineState _ _ (.refl _)))

theorem continueSelf (p : Pu) (t : TaskId) (w : Word) (r : Option WaitResult) (h : Settles a s) :
    Settles a (s.continueSelf p t w r) := respond _ _ _ _ _ h

theorem finishSwitch (p : Pu) (sw : Switch) (sup : Bool) (ts : List TaskId) (h : Settles a s) :
    Settles a (s.finishSwitch p sw sup ts) := by
  unfold State.finishSwitch
  dsimp only
  refine deliver _ _ _ _ _ ?_
  split
  · exact h
  · exact h.moves (.unwind _ _ _ (.refl _))

theorem supersede (p : Pu) (sw : Switch) (o : Outgoing) (w : Word) (h : Settles a s) : Settles a (s.supersede p sw o w) := by
  unfold State.supersede
  dsimp only
  refine finishSwitch _ _ _ _ (sendOut _ _ _ ?_)
  split
  · exact h
  · exact h.moves (.modTask _ _ (.refl _))

theorem replaceDest (p : Pu) (sw : Switch) (o : Outgoing) (w : Word) (place : State → State)
    (hp : ∀ s, Moves s (place s)) (h : Settles a s) : Settles a (s.replaceDest p sw o w place) := by
  have h1 : Settles a ((place (s.storeWord o.task (some w))).finishSwitch p sw false []) :=
    finishSwitch _ _ _ _ (h.moves ((Moves.storeWord _ _ (.refl _)).trans (hp _)))
  unfold State.replaceDest
  dsimp only
  split
  · exact h1.moves (.request _ (.refl _))
  · exact h1

theorem leaveBy (p : Pu) (t : TaskId) (w : Word) (place : State → State) (hp : ∀ s, Moves s (place s)) (h : Settles a s) :
    Settles a (s.leaveBy p t w place) := by
  unfold State.leaveBy
  repeat' split
  all_goals first
    | exact h
    | exact supersede _ _ _ _ h
    | exact replaceDest _ _ _ _ _ hp h
    | exact deliver _ _ _ _ _ (h.moves (.unwind _ _ _ ((Moves.storeWord _ _ (.refl _)).trans (hp _))))

theorem yieldRunning (p : Pu) (t : TaskId) (w : Word) (h : Settles a s) : Settles a (s.yieldRunning p t w) := by
  have hu : Settles a ((s.storeWord t (some w)).unwind p none (.tail t)).st :=
    h.moves (.unwind _ _ _ (.storeWord _ _ (.refl _)))
  unfold State.yieldRunning
  dsimp only
  split
  · exact (continueSelf _ _ _ _ hu).moves (.request _ (.refl _))
  · exact deliver _ _ _ _ _ (hu.moves (.makeReady _ _ (.refl _)))

theorem yieldSwitching (p : Pu) (sw : Switch) (o : Outgoing) (w : Word) (h : Settles a s) :
    Settles a (s.yieldSwitching p sw o w) := by
  unfold State.yieldSwitching
  split
  · exact finishSwitch _ _ _ _ (h.moves (.makeReady _ _ (.storeWord _ _ (.refl _))))
  · exact finishSwitch _ _ _ _ (sendOut _ _ _ h)
  · exact supersede _ _ _ _ h

theorem yieldCommand (p : Pu) (t : TaskId) (w : Word) (h : Settles a s) : Settles a (s.yieldCommand p t w) := by
  unfold State.yieldCommand
  repeat' split
  all_goals first
    | exact h
    | exact yieldSwitching _ _ _ _ h
    | exact yieldRunning _ _ _ h

/-- A unit is taken from a SIGNAL channel alone (R106 (a)). -/
theorem takeUnit (c : ChannelId) (hc : (s.channel c).givesUnit = true) (h : Settles a s) : Settles a (s.takeUnit c) :=
  h.trans ⟨rfl, rfl, rfl, rfl, rfl, fun _ => rfl, config_set c _ rfl, id, fun hl => by
    refine State.channelLaw_setChannel s c _ hl ⟨(hl c).1, (hl c).2.1, fun _ hp => ?_⟩
    simp only [Channel.givesUnit, Bool.and_eq_true, decide_eq_true_eq] at hc
    rw [hc.1.1] at hp
    cases hp⟩

theorem waitSatisfied (p : Pu) (sw : Switch) (o : Outgoing) (w : Word) (c : ChannelId)
    (hc : (s.channel c).givesUnit = true) (h : Settles a s) : Settles a (s.waitSatisfied p sw o w c) :=
  finishSwitch _ _ _ _ (sendOut _ _ _ ((takeUnit c hc h).moves (.modTask _ _ (.refl _))))

theorem waitSwitching (p : Pu) (sw : Switch) (o : Outgoing) (w : Word) (x : ChannelId × BitVec 32) (h : Settles a s) :
    Settles a (s.waitSwitching p sw o w x) := by
  unfold State.waitSwitching
  split
  · rename_i hc; exact waitSatisfied _ _ _ _ _ hc.1 h
  · split
    · exact supersede _ _ _ _ h
    · exact replaceDest _ _ _ _ _ (fun s => .enlist _ _ _ (.refl s)) h

theorem waitContinue (p : Pu) (t : TaskId) (w : Word) (c : ChannelId) (hc : (s.channel c).givesUnit = true)
    (h : Settles a s) : Settles a (s.waitContinue p t w c) :=
  continueSelf _ _ _ _ ((takeUnit c hc h).moves (.modTask _ _ (.storeWord _ _ (.refl _))))

theorem waitCommand (p : Pu) (t : TaskId) (w : Word) (x : ChannelId × BitVec 32) (h : Settles a s) :
    Settles a (s.waitCommand p t w x) := by
  unfold State.waitCommand
  split
  · split
    · exact waitSwitching _ _ _ _ _ h
    · exact h
  · split
    · rename_i hc; exact waitContinue _ _ _ _ hc h
    · exact leaveBy _ _ _ _ (fun s => .enlist _ _ _ (.refl s)) h

/-! ### Channels -/

/-- A change of one channel record that keeps its law. -/
theorem modChannel (c : ChannelId) (f : Channel → Channel) (hg : (f (s.channel c)).config = (s.channel c).config) (hf : (s.channel c).Lawful c → (f (s.channel c)).Lawful c)
    (h : Settles a s) : Settles a (s.modChannel c f) :=
  h.trans ⟨rfl, rfl, rfl, rfl, rfl, fun _ => rfl, config_set c _ hg, id,
    fun hl => State.channelLaw_setChannel s c _ hl (hf (hl c))⟩

/-- An arrival keeps the law of its channel: an unmasked PULSE channel keeps none of its units. -/
theorem arrive (c : ChannelId) (n : Nat) (h : Settles a s) : Settles a (s.arrive c n) := by
  unfold State.arrive
  refine moves ?_ (.wakeAll _ _ (.refl _))
  have h1 : Settles a (s.modChannel c fun r => { r with arrivalCount := r.arrivalCount + 1 }) :=
    modChannel c _ rfl id h
  have key : Settles a ((s.modChannel c fun r => { r with arrivalCount := r.arrivalCount + 1 }).modChannel c
      (Channel.addUnits ((s.channel c).keptOf n))) := by
    refine modChannel c _ (by unfold Channel.addUnits; split <;> rfl) (fun hl => ?_) h1
    simp only [State.modChannel_eq, State.channel_setChannel_same] at hl ⊢
    refine ⟨?_, ?_, ?_⟩
    · unfold Channel.addUnits; split <;> exact hl.1
    · unfold Channel.addUnits; split <;> exact hl.2.1
    · intro hm ho
      have hm' : (s.channel c).masked = false := by
        revert hm; unfold Channel.addUnits; split <;> exact id
      have ho' : (s.channel c).mode = .pulse := by
        revert ho; unfold Channel.addUnits; split <;> exact id
      have hp : (s.channel c).pendingCount = 0 := hl.2.2 hm' ho'
      have hk : (s.channel c).keptOf n = 0 := by simp [Channel.keptOf, hm', ho']
      rw [hk]
      simp [Channel.addUnits, Channel.overflows, hp]
  unfold State.addPending
  dsimp only
  split
  · exact key.moves (.latch _ (.refl _))
  · exact key

end Settles

end Sys2Proof.Machine
end

