-- ==== Sys2Proof/Laws/Ports.lean ====
section
/-!
SUPPORT. What taking a captured command and making its checks come to, one lemma per case; what a request that is taken, or
is not outstanding, comes to.
-/

namespace Sys2Proof.Machine

section
variable {s : State} {p : Pu} {kind : BitVec 8} {c : Captured} {body : Captured → State}

/-- A captured command of this kind is taken. -/
theorem State.takeCommand_captured (hr : s.pins.resetLow = false) (hc : s.capturedAt p = some c) (hk : c.kind = kind) :
    s.takeCommand p kind body = body c := by
  simp [State.takeCommand, hr, hc, hk]

/-- Where RESET# is low, no command is captured or the captured one is of another kind, nothing changes. -/
theorem State.takeCommand_else
    (h : s.pins.resetLow = true ∨ s.capturedAt p = none ∨ ∃ c, s.capturedAt p = some c ∧ c.kind ≠ kind) :
    s.takeCommand p kind body = s := by
  unfold State.takeCommand
  rcases h with h | h | ⟨c, h, hk⟩
  · simp [h]
  · split <;> simp [h]
  · split <;> simp [h, hk]

variable {α : Type} {cls : PrivClass} {args : Option α} {refusal : α → Option Status} {perform : α → State} {x : α}

theorem State.checked_class (h : s.classPasses p cls = false) :
    s.checked p c cls args refusal perform = s.refuse p c .refusedProtect := by
  simp [State.checked, h]

theorem State.checked_range (h : s.classPasses p cls = true) :
    s.checked p c cls (none : Option α) refusal perform = s.refuse p c .refusedRange := by
  simp [State.checked, h]

theorem State.checked_refused {st : Status} (h : s.classPasses p cls = true) (hr : refusal x = some st) :
    s.checked p c cls (some x) refusal perform = s.refuse p c st := by
  simp [State.checked, h, hr]

theorem State.checked_passes (h : s.classPasses p cls = true) (hr : refusal x = none) :
    s.checked p c cls (some x) refusal perform = perform x := by
  simp [State.checked, h, hr]

variable {selfPerform : TaskId → α → State} {t : TaskId}

theorem State.selfChecked_none (h : s.issuerTask p = none) :
    s.selfChecked p c args selfPerform = s.refuse p c .notRunning := by
  simp [State.selfChecked, h]

theorem State.selfChecked_range (h : s.issuerTask p = some t) :
    s.selfChecked p c (none : Option α) selfPerform = s.refuse p c .refusedRange := by
  simp [State.selfChecked, h]

theorem State.selfChecked_passes (h : s.issuerTask p = some t) : s.selfChecked p c (some x) selfPerform = selfPerform t x := by
  simp [State.selfChecked, h]

theorem State.awake_high {f : State → State} (h : s.pins.resetLow = false) : s.awake f = f s := by simp [State.awake, h]

theorem State.awake_low {f : State → State} (h : s.pins.resetLow = true) : s.awake f = s := by simp [State.awake, h]

theorem State.takeRequest_some {want : Request → Bool} {nth : Nat} {act : Request → State → State} {r : Request}
    {rest : List (List Request)} (h : nthRequest want nth s.requests = some (r, rest)) :
    s.takeRequest want nth act = act r { s with requests := rest } := by
  simp [State.takeRequest, h]

theorem State.takeRequest_none {want : Request → Bool} {nth : Nat} {act : Request → State → State}
    (h : nthRequest want nth s.requests = none) : s.takeRequest want nth act = s := by
  simp [State.takeRequest, h]

end

/-- A request that is taken was asked for. -/
theorem nthRequest_wanted {want : Request → Bool} {r : Request} :
    ∀ {gs : List (List Request)} {nth : Nat} {rest : List (List Request)},
      nthRequest want nth gs = some (r, rest) → want r = true
  | [], _, _, h => by simp [nthRequest] at h
  | [] :: gs, nth, rest, h => by
    simp only [nthRequest, Option.map_eq_some_iff] at h
    obtain ⟨⟨r', g⟩, h1, h2⟩ := h
    cases h2
    exact nthRequest_wanted h1
  | (q :: qs) :: gs, nth, rest, h => by
    unfold nthRequest at h
    split at h
    · rename_i hw; cases h; exact hw
    all_goals
      simp only [Option.map_eq_some_iff] at h
      obtain ⟨⟨r', g⟩, h1, h2⟩ := h
      cases h2
      exact nthRequest_wanted h1

/-- Whatever other decisions have outstanding, a request that is next in its group can be the one taken: its place among
those asked for is some `nth` (R113, R167). -/
theorem nthRequest_reaches {want : Request → Bool} {r : Request} {rs : List Request} {after : List (List Request)}
    (h : want r = true) :
    ∀ before : List (List Request), ∃ nth,
      nthRequest want nth (before ++ (r :: rs) :: after) =
        some (r, before ++ (match rs with
          | [] => after
          | _ :: _ => rs :: after))
  | [] => ⟨0, by cases rs <;> simp only [List.nil_append, nthRequest, h]⟩
  | [] :: before => by
    obtain ⟨nth, e⟩ := nthRequest_reaches (rs := rs) (after := after) h before
    exact ⟨nth, by simp only [List.cons_append, nthRequest, e, Option.map_some]⟩
  | (q :: qs) :: before => by
    obtain ⟨nth, e⟩ := nthRequest_reaches (rs := rs) (after := after) h before
    cases hq : want q with
    | true => exact ⟨nth + 1, by simp only [List.cons_append, nthRequest, hq, e, Option.map_some]⟩
    | false => exact ⟨nth, by simp only [List.cons_append, nthRequest, hq, e, Option.map_some]⟩

/-- Taking a request is a move if its effect is one. -/
theorem Moves.takeRequest {a s : State} (want : Request → Bool) (nth : Nat) (act : Request → State → State)
    (ha : ∀ r s, Moves s (act r s)) (h : Moves a s) : Moves a (s.takeRequest want nth act) := by
  unfold State.takeRequest
  split
  · exact (setRequests _ h).trans (ha _ _)
  · exact h

end Sys2Proof.Machine
end

