-- ==== Sys2Proof/Laws/Waits.lean ====
section
/-!
SUPPORT. A wake, an arrival and the stores of a self command as one update each.
-/

namespace Sys2Proof.Machine

section
variable (s : State) (t : TaskId)

/-! ### Words and records -/

theorem State.storeWord_setTask (w : Option Word) (r : TaskRecord) :
    (s.storeWord t w).setTask t r = s.setTask t r := by
  cases w with
  | none => rfl
  | some x => exact s.setTask_setTask t _ r rfl rfl

theorem State.storeWord_task (w : Option Word) :
    (s.storeWord t w).task t = { s.task t with resumeWord := w.getD (s.task t).resumeWord } := by
  cases w with
  | none => rfl
  | some x => simp [State.storeWord]

theorem State.storeWord_state (w : Word) (st : TaskState) :
    State.setTask t { (s.storeWord t (some w)).task t with state := st } (s.storeWord t (some w)) =
      s.setTask t { s.task t with state := st, resumeWord := w } := by
  rw [State.storeWord_setTask, State.storeWord_task]; rfl

theorem State.enlist_storeWord (ch : ChannelId) (timeout : BitVec 32) (w : Word) :
    State.enlist t ch timeout (s.storeWord t (some w)) =
      let listed := (s.setTask t { s.task t with state := .waiting, resumeWord := w }).enterWaiters ch t
      if timeout = 0 then listed else listed.enterDelayList t timeout := by
  unfold State.enlist; dsimp only; rw [State.modTask_eq, State.storeWord_state]

theorem State.startDelay_storeWord (ticks : BitVec 32) (w : Word) :
    State.startDelay t ticks (s.storeWord t (some w)) =
      (s.setTask t { s.task t with state := .waiting, resumeWord := w }).enterDelayList t ticks := by
  unfold State.startDelay; rw [State.modTask_eq, State.storeWord_state]

theorem State.finish_storeWord (w : Word) :
    State.finish t (s.storeWord t (some w)) =
      s.setTask t
        { s.task t with state := .dormant, resumeWord := (s.task t).entryWord, waitResult := none } := by
  unfold State.finish; rw [State.modTask_eq, State.storeWord_setTask, State.storeWord_task]

/-! ### A wake (R112) -/

theorem State.setDelayList_setTask (l : List TaskId) (r : TaskRecord) :
    ({ s.setTask t r with delayList := l } : State) = State.setTask t r { s with delayList := l } := rfl

theorem State.setDelayList_task (l : List TaskId) : State.task { s with delayList := l } t = s.task t := rfl

/-- A wake, as one write of the record between the removals and the queue it enters. -/
theorem State.wake_eq (result : WaitResult) :
    s.wake t result =
      (State.setTask t
        { s.task t with
          state := .ready, waitChannel := none, wakeTick := none, waitResult := some result, stopReason := none }
        { (match (s.task t).waitChannel with
            | some ch => s.setChannel ch { s.channel ch with waiters := (s.channel ch).waiters.filter fun u => u ≠ t }
            | none => s) with delayList := s.delayList.filter fun u => u ≠ t }).enterQueue t .tail := by
  unfold State.wake State.leaveWaiters State.makeReady State.leaveDelayList
  cases h : (s.task t).waitChannel with
  | none =>
    dsimp only
    simp only [State.modTask_eq, State.task_setTask_same]
    rw [State.setTask_setTask _ _ _ _ (by rw [State.task_setTask_same]) (by rw [State.task_setTask_same]),
      State.setTask_setTask _ _ _ _ (by rfl) (by rfl)]
    simp only [State.setDelayList_task, h]; rfl
  | some c =>
    dsimp only
    simp only [State.modTask_eq, State.task_setTask_same]
    rw [State.setTask_setTask _ _ _ _ (by rw [State.task_setTask_same]) (by rw [State.task_setTask_same]),
      State.setTask_setTask _ _ _ _ (by rfl) (by rfl)]
    rw [State.setDelayList_setTask]
    rw [State.setTask_setTask _ _ _ _ (by rfl) (by rfl)]
    simp only [State.task_setTask_same]; rfl

end

/-! ### Arrivals and units (R106, R108 to R110) -/

theorem Channel.givesUnit_iff {r : Channel} :
    r.givesUnit = true ↔ r.mode = .signal ∧ r.masked = false ∧ r.pendingCount ≠ 0 := by
  have positive : 0 < r.pendingCount.toNat ↔ r.pendingCount ≠ 0 := by
    constructor
    · intro h e; rw [e] at h; simp at h
    · intro h
      rcases Nat.eq_zero_or_pos r.pendingCount.toNat with g | g
      · exact absurd (BitVec.eq_of_toNat_eq (by simpa using g)) h
      · exact g
  simp [Channel.givesUnit, positive, and_assoc]

theorem State.setChannel_setChannel (s : State) (ch : ChannelId) (a b : Channel) :
    (s.setChannel ch a).setChannel ch b = s.setChannel ch b := by simp only [State.setChannel, put_put]

/-- An arrival, as one write of the channel before its wakes. -/
theorem State.arrive_eq (s : State) (ch : ChannelId) (n : Nat) :
    let r := s.channel ch
    s.arrive ch n = State.wakeAll (fun _ _ => .signalled) (r.wokenBy n)
      (if 255 < r.pendingCount.toNat + r.keptOf n then
        (s.setChannel ch
          { r with arrivalCount := r.arrivalCount + 1, pendingCount := 255, saturated := true }).latch .pendingSaturated
      else
        s.setChannel ch
          { r with
            arrivalCount := r.arrivalCount + 1
            pendingCount := r.pendingCount + BitVec.ofNat 8 (r.keptOf n) }) := by
  intro r
  unfold State.arrive; dsimp only
  congr 1
  unfold State.addPending
  simp only [State.modChannel_eq, State.channel_setChannel_same, Channel.overflows, Channel.addUnits,
    State.setChannel_setChannel]
  by_cases h : 255 < r.pendingCount.toNat + r.keptOf n
  · have h' : 255 < (s.channel ch).pendingCount.toNat + (s.channel ch).keptOf n := h
    simp [h, h']; rfl
  · have h' : ¬ 255 < (s.channel ch).pendingCount.toNat + (s.channel ch).keptOf n := h
    simp [h, h']; rfl

/-- The destinations that supersede a self command (R59 (c), R129). -/
theorem Dest.supersedes_iff {d : Dest} :
    d.supersedes = true ↔ d = .free ∨ d = .held ∨ ∃ why, d = .suspended why := by
  cases d <;> simp [Dest.supersedes, selfRank, Dest.rank]

/-! ### Budget thresholds (R175, R176) -/

theorem BitVec16.pos_iff (x : BitVec 16) : 0 < x.toNat ↔ x ≠ 0 := by
  rw [Nat.pos_iff_ne_zero]
  constructor
  · intro h e; exact h (by rw [e]; rfl)
  · intro h e; exact h (BitVec.eq_of_toNat_eq (by simpa using e))

theorem TaskRecord.warns_eq (r : TaskRecord) :
    r.warns = decide (r.budgetWarn ≠ 0 ∧ r.budgetWarn ≤ r.budgetUsed ∧ r.warnFlag = false) := by
  unfold TaskRecord.warns
  have reached : r.budgetWarn.toNat ≤ r.budgetUsed.toNat ↔ r.budgetWarn ≤ r.budgetUsed := BitVec.le_def.symm
  simp [BitVec16.pos_iff, reached, Bool.and_assoc]

theorem TaskRecord.limits_eq (r : TaskRecord) :
    r.limits = decide (r.budgetLimit ≠ 0 ∧ r.budgetLimit ≤ r.budgetUsed ∧ r.limitMark = false) := by
  unfold TaskRecord.limits
  have reached : r.budgetLimit.toNat ≤ r.budgetUsed.toNat ↔ r.budgetLimit ≤ r.budgetUsed := BitVec.le_def.symm
  simp [BitVec16.pos_iff, reached, Bool.and_assoc]

theorem State.latch_setTask (s : State) (flag : Cond) (t : TaskId) (r : TaskRecord) :
    State.setTask t r (s.latch flag) = (s.setTask t r).latch flag := rfl

end Sys2Proof.Machine
end

