-- ==== Sys2Proof/WellFormed.lean ====
section
/-!
DEFINITION. Which commands are rows of the table as it describes them. The machine is total: an ill-formed command has
the effect its meaning gives it, and no claim about the spec's rows rests on it.
-/

namespace Sys2Proof

/-- Word select of ARG5, the last window field (R202: offsets 00h to 30h, eight bytes apart). -/
def lastWindowField : Nat := 6

/-- WINDOW_FIELD_WRITE writes KIND or ARG0 to ARG5 (R187); a tick holds back each part at most once. -/
def WellFormed : Instr → Bool
  | .windowFieldWrite _ sel _ => decide (sel.toNat ≤ lastWindowField)
  | .tick held => decide held.Nodup
  | _ => true

end Sys2Proof
end

