-- ==== Sys2Proof/Tests/Slice0.lean ====
section
/-!
SUPPORT. The model's own tests: the well-formedness checks, one or two steps of each command on a small state, and for each
statement of Certificates/Slice0/Obligations.lean that has hypotheses a state that meets them, clause by clause.
-/

namespace Sys2Proof.Tests

open Sys2Proof.Machine

set_option Elab.async false

/-! ### Well-formedness and words -/

theorem test_wellFormed_last_window_field : WellFormed (.windowFieldWrite 0 6 0) = true := by decide

theorem test_illFormed_window_select_above_ARG5 : WellFormed (.windowFieldWrite 0 7 0) = false := by decide

theorem test_wellFormed_tick : WellFormed (.tick [.frame, .delay, .charge 0, .charge 1]) = true := by decide

theorem test_illFormed_tick_part_twice : WellFormed (.tick [.charge 2, .delay, .charge 2]) = false := by decide

/-- No row of the table has bits (log 24). -/
theorem test_no_word_spells_a_command : decodeTableWord 8 1 = none := by decide

/-! ### Small states -/

/-- A captured command of this kind code and these argument words. -/
def capture (kind : Nat) (args : List Nat) : Captured :=
  ⟨.ofNat 8 kind, #v[low (args.getD 0 0), low (args.getD 1 0), low (args.getD 2 0), low (args.getD 3 0), low (args.getD 4 0),
    low (args.getD 5 0)]⟩

/-- Port p has captured this command. -/
def asked (p : Pu) (kind : Nat) (args : List Nat) (s : State) : State :=
  s.setPort p { s.port p with state := .busy (capture kind args) }

/-- The state an outcome answers. -/
def after (i : Instr) (s : State) : State :=
  match exec i s with
  | .next t => t
  | _ => s

/-- The response of a port. -/
def response (s : State) (p : Pu) : Option Status × OutcomeCode × List Nat :=
  ((s.port p).status, (s.port p).outcome, (s.port p).res.toList.map BitVec.toNat)

def user : TaskRecord := { state := .dormant, privilege := .user, affinity := 255, entryWord := 100, resumeWord := 100 }

def supervisor : TaskRecord := { user with state := .running, privilege := .supervisor }

def handler : TaskRecord := { user with cls := .handler, affinity := 1 }

/-- PU p is in this engine state. -/
def engineAt (p : Pu) (st : EngineState) (s : State) : State := s.setEngine p { s.engine p with st := st }

/-- PU p runs task t with this record. -/
def runs (p : Pu) (t : TaskId) (r : TaskRecord) (s : State) : State :=
  engineAt p (.running t) (s.setTask t { r with state := .running })

/-- Task t is READY at the tail of its place. -/
def readyTask (t : TaskId) (r : TaskRecord) (s : State) : State := (s.setTask t r).makeReady t .tail

/-- A switch with this outgoing task and claim, at a limit of 25 units. -/
def switchOf (why : SwitchReason) (out : Option Outgoing) (claimed : Option TaskId) : EngineState :=
  .switching ⟨why, out, claimed, 25, 25⟩

/-- PU p is SWITCHING out task t, a NORMAL USER, to this destination. -/
def switchesOut (p : Pu) (t : TaskId) (d : Dest) (claimed : Option TaskId) (s : State) : State :=
  engineAt p (switchOf .suspend (some ⟨t, d⟩) claimed) (s.setTask t { user with state := .running })

/-- One outstanding request. -/
def outstanding (r : Request) (s : State) : State := { s with requests := [[r]] }

/-- A schedule in FRAMING, its two windows two ticks long and OPEN for every PU. -/
def openFrame : FrameUnit :=
  { tickPeriod := 100, state := .framing, ticksRemaining := 2
    bankA := ⟨2, Vector.replicate 24 ⟨2, Vector.replicate 8 .opened⟩⟩
    bankB := ⟨1, Vector.replicate 24 ⟨3, Vector.replicate 8 .opened⟩⟩ }

/-- FRAMING, all PUs OFFLINE. -/
def framed : State := { State.reset with frame := openFrame }

/-- FRAMING, PU 0 running the SUPERVISOR task 1. -/
def boss : State := runs 0 1 supervisor framed

/-- FRAMING, PU 0 running task 1 of MANAGER privilege. -/
def managed : State := runs 0 1 { supervisor with privilege := .manager } framed

/-- FRAMING, PU 0 running the USER task 1. -/
def served : State := runs 0 1 user framed

/-- CREATE's first argument word. -/
def createWord (id part prio cls priv : Nat) : Nat := id + 256 * part + 65536 * prio + 2 ^ 24 * cls + 2 ^ 25 * priv

/-! ### One or two steps of each command -/

theorem test_create :
    let t := after (.create 0) (asked 0 1 [createWord 255 3 5 0 1, 6, 77] State.reset)
    response t 0 = (some .done, .none, [0, 1, 0, 0, 0, 0]) ∧
      t.task 0 = { state := .dormant, partition := 3, priority := 5, privilege := .manager, affinity := 6,
                   entryWord := 77, resumeWord := 77 } ∧ (t.part 3).memberCount = 1 := by
  decide +kernel

theorem test_create_all_records_taken :
    response (after (.create 0) (asked 0 1 [createWord 255 0 0 0 0, 1, 0]
      { State.reset with tasks := Vector.replicate 128 user })) 0 = (some .noResource, .none, [0, 0, 0, 0, 0, 0]) := by
  decide +kernel

theorem test_start :
    let t := after (.start 0) (asked 0 2 [4] (State.reset.setTask 4 user))
    response t 0 = (some .done, .none, [4, 2, 0, 0, 0, 0]) ∧ t.readyQueue 0 0 = [4] ∧ t.requests = [[.place 4]] := by
  decide +kernel

theorem test_suspend :
    let t := after (.suspend 0) (asked 0 3 [4] (readyTask 4 user State.reset))
    response t 0 = (some .done, .none, [4, 8, 0, 0, 0, 0]) ∧ t.readyQueue 0 0 = [] ∧
      (t.task 4).stopReason = some .command := by
  decide +kernel

theorem test_suspend_running_is_deferred :
    let t := after (.suspend 0) (asked 0 3 [1] boss)
    response t 0 = (some .done, .deferred, [1, 4, 0, 0, 0, 0]) ∧
      (t.engine 0).st = switchOf .suspend (some ⟨1, .suspended .command⟩) none := by
  decide +kernel

theorem test_resume :
    let t := after (.resume 0) (asked 0 4 [4] (State.reset.setTask 4 { handler with state := .suspended }))
    response t 0 = (some .done, .none, [4, 2, 0, 0, 0, 0]) ∧ t.urgentQueue 0 = [4] ∧
      t.requests = [[.urgent 0 .arrival]] := by
  decide +kernel

theorem test_retire :
    let t := after (.retire 0) (asked 0 5 [4] (State.reset.setTask 4 user))
    response t 0 = (some .done, .none, [4, 0, 0, 0, 0, 0]) ∧ t.task 4 = TaskRecord.freeRecord ∧
      (t.part 0).memberCount = 0 := by
  decide +kernel

theorem test_setPriority :
    let t := after (.setPriority 0) (asked 0 6 [4, 7] (readyTask 4 user State.reset))
    t.readyQueue 0 0 = [] ∧ t.readyQueue 0 7 = [4] ∧ t.requests = [[.place 4]] := by
  decide +kernel

/-- A handler that SET_PRIORITY makes more urgent nests at the same decision (R23, R90, log 8). -/
theorem test_setPriority_nests_a_handler :
    let t := after (.setPriority 0) (asked 0 6 [4, 1] (readyTask 4 { handler with priority := 5 }
      (runs 0 1 { handler with privilege := .supervisor, priority := 3 } framed)))
    response t 0 = (some .done, .none, [4, 3, 0, 0, 0, 0]) ∧
      (t.engine 0).st = switchOf .urgent (some ⟨1, .displaced⟩) (some 4) ∧ t.requests = [] := by
  decide +kernel

/-- A full stack that loses an entry lets the deferred handler nest at the same decision (R92 (b), log 8). -/
theorem test_suspend_of_a_stack_entry_nests_the_deferred_handler :
    let full := (runs 0 1 { handler with privilege := .supervisor, priority := 3 } framed).setStack 0 [5, 6, 7, 8]
    let t := after (.suspend 0) (asked 0 3 [8] (readyTask 4 handler (full.setTask 8 { user with state := .displaced })))
    (t.engine 0).stack = [5, 6, 7] ∧ (t.engine 0).st = switchOf .urgent (some ⟨1, .displaced⟩) (some 4) := by
  decide +kernel

theorem test_setAffinity_takes_the_running_task_off_its_pu :
    let t := after (.setAffinity 0) (asked 0 7 [1, 2] boss)
    (t.engine 0).st = switchOf .affinity (some ⟨1, .readyHead⟩) none ∧ (t.task 1).affinity = 2 := by
  decide +kernel

theorem test_readTask :
    response (after (.readTask 0) (asked 0 8 [1] boss)) 0 = (some .done, .none,
      [1 + 2 ^ 26 + 255 * 2 ^ 32 + 255 * 2 ^ 56, 4 + 255 * 256, 100, 100, 0, 0]) := by
  decide +kernel

theorem test_haltPartition :
    let t := after (.haltPartition 0) (asked 0 9 [0] boss)
    response t 0 = (some .done, .none, [0, 1, 0, 0, 0, 0]) ∧
      (t.engine 0).st = switchOf .halt (some ⟨1, .readyHead⟩) none ∧ t.latched .partitionHalted = true := by
  decide +kernel

theorem test_releasePartition :
    let t := after (.releasePartition 0) (asked 0 10 [0]
      ((readyTask 4 user boss).setPart 0 ⟨some .command, none, 2, 1⟩))
    (t.part 0).halted = none ∧ t.requests = [[.place 4]] := by
  decide +kernel

theorem test_purgePartition :
    let t := after (.purgePartition 0) (asked 0 11 [0] (readyTask 4 user boss))
    response t 0 = (some .done, .none, [0, 2, 0, 0, 0, 0]) ∧ (t.task 4).state = .free ∧
      (t.engine 0).st = switchOf .retire (some ⟨1, .free⟩) none := by
  decide +kernel

theorem test_readPartition :
    response (after (.readPartition 0) (asked 0 12 [0] (readyTask 4 user boss))) 0 =
      (some .done, .none, [0, 0, 0, 255, 0, 1 + 2 * 2 ^ 32]) := by
  decide +kernel

theorem test_join_takes_up_ready_work :
    let t := after (.join 1) (asked 1 13 [] (readyTask 4 user framed))
    response t 1 = (some .done, .none, [0, 0, 0, 0, 0, 0]) ∧ (t.engine 1).st = switchOf .unwind none (some 4) ∧
      t.swreq 1 = true := by
  decide +kernel

theorem test_leave :
    let t := after (.leave 1) (asked 1 14 [] (engineAt 1 .idle framed))
    (t.engine 1).st = .offline ∧ response t 1 = (some .done, .none, [0, 0, 0, 0, 0, 0]) := by
  decide +kernel

theorem test_handover_delivers_the_claim :
    let t := after (.handover 1) (asked 1 15 [55]
      (switchesOut 1 2 .readyHead (some 4) (framed.setTask 4 { user with state := .claimed })))
    response t 1 = (some .done, .switched, [4, 100, 0, 5, 0, 0]) ∧ (t.engine 1).st = .running 4 ∧
      (t.task 2).state = .ready ∧ (t.task 2).resumeWord = 55 ∧ t.requests = [[.place 2]] := by
  decide +kernel

theorem test_handover_idle :
    let t := after (.handover 1) (asked 1 15 [0, 1] (switchesOut 1 2 (.suspended .command) none framed))
    response t 1 = (some .done, .idle, [255, 0, 0, 5, 0, 0]) ∧ (t.engine 1).st = .idle ∧
      (t.task 2).resumeWord = 100 := by
  decide +kernel

/-- A PU that completes to idle and claims at that completion: SWREQ is high before and after, and has risen once more
(R54, log 19). -/
theorem test_handover_to_idle_raises_the_line_anew :
    let s := asked 1 15 [0, 1] (readyTask 4 user (switchesOut 1 2 (.suspended .command) none framed))
    let t := after (.handover 1) s
    s.swreq 1 = true ∧ t.swreq 1 = true ∧ (t.engine 1).swreqRises = (s.engine 1).swreqRises + 1 ∧
      (t.engine 1).claimedTask = some 4 := by
  decide +kernel

/-- The time that remains on the deadline timer (R77 (f)). -/
theorem test_readPu_of_a_switching_pu :
    (response (after (.readPu 1) (asked 1 16 [0] (switchesOut 0 1 .readyHead none framed))) 1).2.2[5]? =
      some (25 * 65536) := by
  decide +kernel

theorem test_readPu :
    response (after (.readPu 1) (asked 1 16 [0] boss)) 1 =
      (some .done, .none, [0, 3 + 8 * 2 ^ 32, 1 + 255 * 256, 255 + 255 * 256 + 255 * 65536 + 255 * 2 ^ 24, 0, 0]) := by
  decide +kernel

theorem test_resetPu :
    let t := after (.resetPu 0) (asked 0 17 [2] (runs 2 5 user boss))
    response t 0 = (some .done, .none, [2, 3, 0, 0, 0, 0]) ∧ (t.engine 2).st = .offline ∧
      (t.task 5).state = .suspended ∧ (t.task 5).stopReason = some .stranded := by
  decide +kernel

theorem test_post :
    let t := after (.post 0) (asked 0 18 [16, 255] (boss.setChannel 16 { masked := false, pendingCount := 1 }))
    response t 0 = (some .done, .none, [16, 0, 255, 1, 0, 0]) ∧ t.latched .pendingSaturated = true := by
  decide +kernel

theorem test_readChannel :
    response (after (.readChannel 0) (asked 0 19 [47] boss)) 0 =
      (some .done, .none, [47 + 256 + 4096 + 8192, 0, 0, 0, 0, 18446744073709551615]) := by
  decide +kernel

theorem test_bind_releases_the_waiters :
    let t := after (.bind 0) (asked 0 20 [20, 1, 0, 0, 0, 3]
      ((boss.setTask 4 { user with state := .waiting, waitChannel := some 20 }).setChannel 20 { waiters := [4] }))
    response t 0 = (some .done, .none, [20, 1, 0, 0, 0, 0]) ∧ (t.task 4).waitResult = some .channelReset ∧
      t.channel 20 = { mode := .pulse, masked := false, disposition := .hold, postRights := 3 } := by
  decide +kernel

theorem test_mask :
    let t := after (.mask 0) (asked 0 21 [3] (boss.setChannel 3 { masked := false, pendingCount := 9 }))
    (t.channel 3).masked = true ∧ response t 0 = (some .done, .none, [3, 9, 0, 0, 0, 0]) := by
  decide +kernel

theorem test_unmask_gives_held_units :
    let t := after (.unmask 0) (asked 0 22 [3]
      ((boss.setTask 4 { user with state := .waiting, waitChannel := some 3 }).setChannel 3
        { pendingCount := 2, waiters := [4] }))
    response t 0 = (some .done, .none, [3, 1, 1, 0, 0, 0]) ∧ (t.task 4).waitResult = some .signalled := by
  decide +kernel

theorem test_yield_gives_way_to_the_next_in_turn :
    let t := after (.yield 0) (asked 0 23 [7] (readyTask 4 user served))
    response t 0 = (some .done, .switched, [4, 100, 0, 0, 0, 0]) ∧ t.readyQueue 0 0 = [1] ∧
      (t.task 1).resumeWord = 7 := by
  decide +kernel

theorem test_yield_continues_alone :
    response (after (.yield 0) (asked 0 23 [7] served)) 0 = (some .done, .continue, [1, 7, 0, 0, 0, 0]) := by
  decide +kernel

theorem test_wait_enlists :
    let t := after (.wait 0) (asked 0 24 [7, 16, 3] served)
    (t.engine 0).st = .idle ∧ (t.channel 16).waiters = [1] ∧ t.delayList = [1] ∧ (t.task 1).wakeTick = some 3 := by
  decide +kernel

theorem test_wait_satisfied_at_once :
    let t := after (.wait 0) (asked 0 24 [7, 16, 3] (served.setChannel 16 { masked := false, pendingCount := 1 }))
    response t 0 = (some .done, .continue, [1, 7, 1, 0, 0, 0]) ∧ (t.channel 16).pendingCount = 0 := by
  decide +kernel

theorem test_delay :
    let t := after (.delay 0) (asked 0 25 [7, 16777215] served)
    t.delayList = [1] ∧ (t.task 1).state = .waiting ∧ response t 0 = (some .done, .idle, [255, 0, 0, 0, 0, 0]) := by
  decide +kernel

theorem test_finish :
    let t := after (.finish 0) (asked 0 26 [7] served)
    (t.task 1).state = .dormant ∧ (t.task 1).resumeWord = 100 ∧ (t.engine 0).st = .idle := by
  decide +kernel

theorem test_readSelf :
    (response (after (.readSelf 0) (asked 0 27 [] served)) 0).1 = some .done := by
  decide +kernel

theorem test_configure :
    let t := after (.configure 0) (asked 0 28 [1000, 255, 1, 65535] State.reset)
    t.frame.tickPeriod = 1000 ∧ t.frame.handoverLimit = 255 ∧ t.frame.syncMode = .sync ∧ t.frame.gapLimit = 65535 := by
  decide +kernel

theorem test_startSchedule :
    let t := after (.startSchedule 0) (asked 0 29 [] { State.reset with frame := { openFrame with state := .stopped } })
    response t 0 = (some .done, .none, [2, 0, 0, 0, 0, 0]) ∧ t.frame.state = .framing ∧ t.frame.frameCounter = 1 ∧
      t.requests.length = 2 := by
  decide +kernel

theorem test_stopSchedule :
    let t := after (.stopSchedule 0) (asked 0 30 [] boss)
    t.frame.state = .stopped ∧ (t.engine 0).st = switchOf .stop (some ⟨1, .readyHead⟩) none := by
  decide +kernel

theorem test_writeWindow :
    let t := after (.writeWindow 0) (asked 0 31 [23, 65535, 9 + 256 * 8] boss)
    response t 0 = (some .done, .none, [1, 23, 0, 0, 0, 0]) ∧
      t.frame.bankB.windows[23] = ⟨65535, #v[.idle, .opened, .part 0, .part 0, .part 0, .part 0, .part 0, .part 0]⟩ := by
  decide +kernel

theorem test_setPlanLength :
    let t := after (.setPlanLength 0) (asked 0 32 [24] boss)
    response t 0 = (some .done, .none, [1, 24, 0, 0, 0, 0]) ∧ t.frame.bankB.count = 24 ∧ t.frame.bankA.count = 2 := by
  decide +kernel

theorem test_armPlanSwitch :
    let t := after (.armPlanSwitch 0) (asked 0 33 [255] boss)
    t.frame.countdown = 255 ∧ response t 0 = (some .done, .none, [255, 0, 0, 0, 0, 0]) := by
  decide +kernel

theorem test_readPlan :
    response (after (.readPlan 0) (asked 0 34 [1, 0] boss)) 0 = (some .done, .none, [1, 0, 1, 0, 3, 0x0808080808080808]) := by
  decide +kernel

theorem test_setBudget :
    let t := after (.setBudget 0) (asked 0 35 [1, 10, 10, 3] (boss.setTask 1 { supervisor with budgetUsed := 6, warnFlag := true }))
    response t 0 = (some .done, .none, [1, 4, 6, 0, 0, 0]) ∧ (t.task 1).budgetLimit = 10 ∧
      (t.task 1).budgetAction = .halt ∧ (t.task 1).warnFlag = false := by
  decide +kernel

theorem test_readStatus :
    (response (after (.readStatus 0) (asked 0 36 [] boss)) 0).2.2.getD 1 0 = 2 * 2 ^ 32 := by
  decide +kernel

theorem test_clearConditions :
    let t := after (.clearConditions 0) (asked 0 37 [1 + 2 ^ 40] { boss with conds := ⟨5, 4⟩ })
    t.conds = ⟨4, 4⟩ ∧ t.attn = true ∧ response t 0 = (some .done, .none, [4, 0, 0, 0, 0, 0]) := by
  decide +kernel

theorem test_setAttnEnable :
    let t := after (.setAttnEnable 0) (asked 0 38 [2 ^ 17 + 1] { boss with conds := ⟨4, 4⟩ })
    t.conds = ⟨4, 1⟩ ∧ t.attn = false ∧ response t 0 = (some .done, .none, [4, 1, 0, 0, 0, 0]) := by
  decide +kernel

theorem test_systemReset :
    let t := after (.systemReset 0) (asked 0 39 [] (asked 3 23 [] boss))
    (t.engine 0).st = .idle ∧ (t.engine 3).st = .offline ∧ (t.task 1).state = .free ∧ t.frame.state = .stopped ∧
      (t.port 0).status = some .done ∧ (t.port 3).status = some .aborted := by
  decide +kernel

theorem test_undefinedCommandKind :
    (after (.undefinedCommandKind 0) (asked 0 40 [] boss)).port 0 =
      { (asked 0 40 [] boss).port 0 with state := .done, status := some .refusedRange } := by
  decide +kernel

theorem test_goDiscarded :
    let t := after (.goDiscarded 0) (asked 0 13 [] State.reset)
    (t.port 0).overrun = true ∧ t.latched .portOverrun = true ∧ (t.port 0).state = .busy (capture 13 []) := by
  decide +kernel

theorem test_goAccepted :
    ((after (.goAccepted 0) (State.reset.setPort 0 { kind := 13, overrun := true })).port 0) =
      { kind := 13, state := .busy (capture 13 []) } := by
  decide +kernel

theorem test_windowFieldWrite :
    (after (.windowFieldWrite 0 0 0x1FF) State.reset).port 0 = { kind := 0xFF } ∧
      ((after (.windowFieldWrite 0 6 9) State.reset).port 0).args[5] = 9 := by
  decide +kernel

theorem test_hardReset :
    after .hardReset { boss with pins := ⟨false, 3, true⟩ } = { State.reset with pins := ⟨true, 3, true⟩ } := by
  decide +kernel

theorem test_eventLineEdge :
    let t := after (.eventLineEdge 15 true) (State.reset.setChannel 15 { masked := false })
    (t.channel 15).pendingCount = 1 ∧ (t.channel 15).arrivalCount = 1 ∧ t.pins.events = 0x8000 := by
  decide +kernel

theorem test_fsyncEdge_is_early_in_FRAMING :
    let t := after (.fsyncEdge true) { framed with frame := { openFrame with syncMode := .sync } }
    t.frame.earlySync = 1 ∧ t.frame.frameCounter = 1 ∧ t.latched .earlySync = true := by
  decide +kernel

theorem test_tick :
    let t := after (.tick []) boss
    t.frame.tickCounter = 1 ∧ t.frame.ticksRemaining = 1 ∧ (t.task 1).budgetUsed = 1 ∧ t.requests = [] := by
  decide +kernel

/-- A switch without an outgoing task, with this much time left of a limit of 25 units. -/
def switchLeft (n : BitVec 8) : EngineState := .switching ⟨.unwind, none, none, 25, n⟩

/-- What was left of the deadline has passed on the other timers too. -/
theorem test_handoverDeadlineExpiry :
    let t := after (.handoverDeadlineExpiry 0) (engineAt 1 (switchLeft 30) (switchesOut 0 1 .readyHead none framed))
    (t.engine 0).st = .faulted ∧ (t.engine 0).faultCount = 1 ∧ (t.task 1).stopReason = some .stranded ∧
      t.latched (.puFault 0) = true ∧ (t.engine 1).st = switchLeft 5 := by
  decide +kernel

/-- The deadline of another PU comes first. -/
theorem test_handoverDeadlineExpiry_after_another :
    let s := engineAt 1 (switchLeft 24) (switchesOut 0 1 .readyHead none framed)
    after (.handoverDeadlineExpiry 0) s = s := by
  decide +kernel

/-- The state a step on an empty queue answers. -/
def afterIdle (s : State) : State :=
  match step s with
  | .next t => t
  | _ => s

/-- Time passes on an empty queue, and the deadline that has run out is taken there (R68, log 1). -/
theorem test_idle_step :
    ((afterIdle (engineAt 0 (switchLeft 1) framed)).engine 0).st = switchLeft 0 ∧
      ((afterIdle (engineAt 0 (switchLeft 0) framed)).engine 0).st = .faulted := by
  decide +kernel

theorem test_delayListExpiry :
    let t := after .delayListExpiry (outstanding (.tickDelay 5)
      { framed.setTask 4 { user with state := .waiting, wakeTick := some 5 } with delayList := [4] })
    t.delayList = [] ∧ (t.task 4).waitResult = some .elapsed ∧ t.requests = [[.place 4]] := by
  decide +kernel

theorem test_windowEnd :
    let t := after .windowEnd (outstanding .tickFrame { framed with frame := { openFrame with ticksRemaining := 1 } })
    t.frame.windowIndex = 1 ∧ t.frame.ticksRemaining = 2 ∧ t.requests = [] := by
  decide +kernel

/-- A window start hands on the re-evaluation of each PU whose entry changes, with its entry in the former window (R164, R167). -/
theorem test_windowEnd_hands_on_the_former_entries :
    let changed : Window := ⟨3, (Vector.replicate 8 .opened).set 2 .idle⟩
    let t := after .windowEnd (outstanding .tickFrame { framed with frame := { openFrame with
      ticksRemaining := 1, bankA := { openFrame.bankA with windows := openFrame.bankA.windows.set 1 changed } } })
    t.frame.ticksRemaining = 3 ∧ t.requests = [[.window 2 (some .opened)]] := by
  decide +kernel

theorem test_gapLimit :
    let t := after .gapLimit (outstanding .tickFrame
      { framed with frame := { openFrame with state := .gap, syncMode := .sync, gapTicks := 999 } })
    t.frame.state = .framing ∧ t.latched .syncLost = true := by
  decide +kernel

theorem test_budgetLimitReached :
    let t := after (.budgetLimitReached 0) (outstanding (.charge 0)
      (runs 0 1 { user with budgetLimit := 1, budgetAction := .hold } framed))
    (t.engine 0).st = switchOf .budget (some ⟨1, .held⟩) none ∧ (t.task 1).overrunCount = 1 := by
  decide +kernel

theorem test_haltRequest :
    let t := after (.haltRequest 0 1) (outstanding (.halt 0 1) served)
    (t.part 0).halted = some (.budget 1) ∧ (t.engine 0).st = switchOf .halt (some ⟨1, .readyHead⟩) none := by
  decide +kernel

theorem test_placeRequest_preempts :
    let t := after (.placeRequest ⟨4, 0⟩) (outstanding (.place 4)
      (readyTask 4 user (runs 0 1 { user with priority := 3 } framed)))
    (t.engine 0).st = switchOf .preempt (some ⟨1, .readyHead⟩) (some 4) ∧ (t.task 4).state = .claimed := by
  decide +kernel

theorem test_urgentArrival_displaces :
    let t := after (.urgentArrival 0 ⟨.arrival, 0⟩) (outstanding (.urgent 0 .arrival) (readyTask 4 handler served))
    (t.engine 0).st = switchOf .urgent (some ⟨1, .displaced⟩) (some 4) ∧ (t.engine 0).occupancy = 1 := by
  decide +kernel

/-- `nth` says which decision's request is taken (R113, log 3). -/
theorem test_requests_of_two_decisions_interleave :
    let s : State := { framed with requests :=
      [[.urgent 0 .arrival, .urgent 0 .arrival, .place 5], [.urgent 0 .arrival, .place 6]] }
    (after (.urgentArrival 0 ⟨.arrival, 0⟩) s).requests = [[.urgent 0 .arrival, .place 5], [.urgent 0 .arrival, .place 6]] ∧
      (after (.urgentArrival 0 ⟨.arrival, 1⟩) s).requests = [[.urgent 0 .arrival, .urgent 0 .arrival, .place 5], [.place 6]] ∧
      after (.urgentArrival 0 ⟨.arrival, 2⟩) s = s := by
  decide +kernel

theorem test_windowReEvaluation :
    let t := after (.windowReEvaluation ⟨0, 0⟩) (outstanding (.window 0 (some .opened)) { served with frame :=
      { openFrame with bankA := ⟨1, Vector.replicate 24 ⟨2, Vector.replicate 8 .idle⟩⟩ } })
    (t.engine 0).st = switchOf .window (some ⟨1, .readyHead⟩) none := by
  decide +kernel

/-- An empty slot under urgent work is chosen anew; here the choice is the outgoing task (R65, R66, log 28). -/
theorem test_windowReEvaluation_of_an_empty_slot :
    let t := after (.windowReEvaluation ⟨0, 0⟩) (outstanding (.window 0 (some .idle)) (switchesOut 0 1 .displaced none framed))
    (t.engine 0).st = .running 1 := by
  decide +kernel

/-- FRAMING with this entry for every PU, PU 0 IDLE, task 4 READY; its place request is outstanding beside the re-evaluation
of PU 0 that carries this former entry. -/
def betweenWindows (former : Option MapEntry) (entry : MapEntry) : State :=
  { readyTask 4 user (engineAt 0 .idle framed) with
    frame := { openFrame with bankA := ⟨1, Vector.replicate 24 ⟨2, Vector.replicate 8 entry⟩⟩ }
    requests := [[.window 0 former], [.place 4]] }

/-- Before the re-evaluation a place request judges the former window: it claims PU 0 where that window allows, and not
where only the window in force does (R167). From STOPPED or ARMED there is no former window. -/
theorem test_placeRequest_before_the_re_evaluation :
    let claims (s : State) := ((after (.placeRequest ⟨4, 0⟩) s).engine 0).claimedTask
    claims (betweenWindows (some .opened) .idle) = some 4 ∧ claims (betweenWindows (some .idle) .opened) = none ∧
      claims (betweenWindows none .opened) = none := by
  decide +kernel

/-- After the re-evaluation it judges the new window (R167). The re-evaluation itself always does. -/
theorem test_placeRequest_after_the_re_evaluation :
    let t := after (.windowReEvaluation ⟨0, 0⟩) (betweenWindows (some .opened) .idle)
    (t.engine 0).claimedTask = none ∧ ((after (.placeRequest ⟨4, 0⟩) t).engine 0).claimedTask = none ∧
      ((after (.windowReEvaluation ⟨0, 0⟩) (betweenWindows (some .idle) .opened)).engine 0).claimedTask = some 4 := by
  decide +kernel

/-- Two window starts are outstanding: the oldest former entry counts (log 30). -/
theorem test_placeRequest_before_two_re_evaluations :
    let claims (s : State) := ((after (.placeRequest ⟨4, 0⟩) s).engine 0).claimedTask
    let both (first second : Option MapEntry) : State :=
      { betweenWindows none .idle with requests := [[.window 0 first], [.window 0 second], [.place 4]] }
    claims (both (some .opened) (some .idle)) = some 4 ∧ claims (both (some .idle) (some .opened)) = none ∧
      claims (both (some .opened) none) = none := by
  decide +kernel

theorem test_budgetFrameStart :
    let t := after .budgetFrameStart (outstanding .budgetFrameStart
      (framed.setTask 4 { user with state := .held, budgetUsed := 9, stopReason := some .budget }))
    (t.task 4).state = .ready ∧ (t.task 4).budgetUsed = 0 ∧ t.requests = [[.place 4]] := by
  decide +kernel

theorem test_resetRise :
    (after (.resetRise 7 true) { State.reset with pins := ⟨true, 0, false⟩ }).pins = ⟨false, 7, true⟩ := by
  decide +kernel

def nextOf : Host.Outcome State Fault Refusal → Option State
  | .next s => some s
  | _ => none

/-- A command in front of the queue is taken; on an empty queue 4 µs pass (log 1). -/
theorem test_step :
    nextOf (step { State.reset with pending := [.hardReset] }) = some { State.reset with pins := ⟨true, 0, false⟩ } ∧
      nextOf (step (switchesOut 0 1 .readyHead none framed)) =
        some (engineAt 0 (.switching ⟨.suspend, some ⟨1, .readyHead⟩, none, 25, 24⟩)
          (framed.setTask 1 { user with state := .running })) := by
  decide +kernel

/-! ### Hypotheses met: what a statement asks of a command, spelled out so that it can be decided -/

theorem captures_iff {s : State} {p : Pu} {k : BitVec 8} {c : Captured} :
    Captures s p k c ↔ s.pins.resetLow = false ∧ s.capturedAt p = some c ∧ c.kind = k :=
  ⟨fun ⟨a, b, d⟩ => ⟨a, b, d⟩, fun ⟨a, b, d⟩ => ⟨a, b, d⟩⟩

theorem issued_iff {s : State} {p : Pu} {k : BitVec 8} {cls : PrivClass} {c : Captured} :
    Issued s p k cls c ↔
      (s.pins.resetLow = false ∧ s.capturedAt p = some c ∧ c.kind = k) ∧ s.classPasses p cls = true :=
  ⟨fun ⟨a, b⟩ => ⟨captures_iff.1 a, b⟩, fun ⟨a, b⟩ => ⟨captures_iff.2 a, b⟩⟩

theorem onTask_iff {s : State} {p : Pu} {c : Captured} {t : TaskId} :
    OnTask s p c t ↔ (c.arg 0).toNat = t.val ∧ s.taskInScope p t = true :=
  ⟨fun ⟨a, b⟩ => ⟨a, b⟩, fun ⟨a, b⟩ => ⟨a, b⟩⟩

theorem runsOn_iff {s : State} {t : TaskId} {q : Pu} :
    RunsOn s t q ↔ (s.engine q).runningTask = some t ∧ ∀ r, (s.engine r).runningTask = some t → r = q :=
  ⟨fun ⟨a, b⟩ => ⟨a, b⟩, fun ⟨a, b⟩ => ⟨a, b⟩⟩

theorem claimedOn_iff {s : State} {t : TaskId} {q : Pu} :
    ClaimedOn s t q ↔ (s.engine q).claimedTask = some t ∧ ∀ r, (s.engine r).claimedTask = some t → r = q :=
  ⟨fun ⟨a, b⟩ => ⟨a, b⟩, fun ⟨a, b⟩ => ⟨a, b⟩⟩

theorem stackedOn_iff {s : State} {t : TaskId} {q : Pu} :
    StackedOn s t q ↔ t ∈ (s.engine q).stack ∧ ∀ r, t ∈ (s.engine r).stack → r = q :=
  ⟨fun ⟨a, b⟩ => ⟨a, b⟩, fun ⟨a, b⟩ => ⟨a, b⟩⟩

theorem nextRequest_iff {s : State} {want : Request → Bool} {nth : Nat} {r : Request} {rest : List (List Request)} :
    NextRequest s want nth r rest ↔ s.pins.resetLow = false ∧ nthRequest want nth s.requests = some (r, rest) := Iff.rfl

/-! ### Witnesses: privilege, ranges, ports, protection -/

theorem witness_PrivilegeFollowsTheRunningTask :
    State.reset.frame.state = .stopped ∧
      (framed.frame.state ≠ .stopped ∧ (framed.engine 7).runningTask = none) ∧
      (boss.frame.state ≠ .stopped ∧ (boss.engine 0).runningTask = some 1) := by decide +kernel

/-- The empty queue, with a timer that runs, one that stands at 0, and a PU that is not SWITCHING. -/
theorem witness_StepTakesTheFrontCommand :
    let ranOut (s : State) (q : Pu) : Prop := (s.engine q).timeLeft = some 0
    let s := engineAt 1 (switchLeft 0) (engineAt 0 (switchLeft 1) framed)
    s.pending = [] ∧ (s.engine 0).st = switchLeft 1 ∧ (s.engine 1).st = switchLeft 0 ∧ (s.engine 2).st = .offline ∧
      (∀ q, ranOut s q → q = 1) ∧ ∀ q, ¬ ranOut (engineAt 0 (switchLeft 1) framed) q := by
  decide +kernel

/-- Where each range ends: the last value it takes in, and the first it does not. -/
theorem witness_outOfRange_tasks_partitions_PUs :
    let out (i : Instr) (args : List Nat) : Bool := outOfRange (capture 0 args) i
    [out (.start 0) [127], out (.start 0) [128]] = [false, true] ∧
      [out (.suspend 0) [127], out (.suspend 0) [128]] = [false, true] ∧
      [out (.resume 0) [127], out (.resume 0) [128]] = [false, true] ∧
      [out (.retire 0) [127], out (.retire 0) [128]] = [false, true] ∧
      [out (.readTask 0) [127], out (.readTask 0) [128]] = [false, true] ∧
      [out (.setPriority 0) [127, 7], out (.setPriority 0) [128, 7], out (.setPriority 0) [127, 8]] = [false, true, true] ∧
      [out (.setAffinity 0) [127, 1], out (.setAffinity 0) [128, 1], out (.setAffinity 0) [127, 256]] =
        [false, true, true] ∧
      [out (.haltPartition 0) [7], out (.haltPartition 0) [8]] = [false, true] ∧
      [out (.releasePartition 0) [7], out (.releasePartition 0) [8]] = [false, true] ∧
      [out (.purgePartition 0) [7], out (.purgePartition 0) [8]] = [false, true] ∧
      [out (.readPartition 0) [7], out (.readPartition 0) [8]] = [false, true] ∧
      [out (.readPu 0) [7], out (.readPu 0) [8]] = [false, true] ∧
      [out (.resetPu 0) [7], out (.resetPu 0) [8]] = [false, true] := by decide +kernel

theorem witness_outOfRange_CREATE :
    let out (args : List Nat) : Bool := outOfRange (capture 1 args) (.create 0)
    [out [createWord 127 7 7 1 2, 128], out [createWord 255 0 0 0 0, 255]] = [false, false] ∧
      [out [createWord 128 0 0 0 0, 1], out [createWord 254 0 0 0 0, 1], out [createWord 0 8 0 0 0, 1],
        out [createWord 0 0 8 0 0, 1], out [createWord 0 0 0 0 3, 1], out [createWord 0 0 0 0 0, 0],
        out [createWord 0 0 0 1 0, 3]] = [true, true, true, true, true, true, true] := by decide +kernel

theorem witness_outOfRange_channels :
    let out (i : Instr) (args : List Nat) : Bool := outOfRange (capture 0 args) i
    [out (.post 0) [16, 1], out (.post 0) [47, 255]] = [false, false] ∧
      [out (.post 0) [15, 1], out (.post 0) [48, 1], out (.post 0) [16, 0], out (.post 0) [16, 256]] =
        [true, true, true, true] ∧
      [out (.readChannel 0) [47], out (.readChannel 0) [48]] = [false, true] ∧
      [out (.mask 0) [47], out (.mask 0) [48]] = [false, true] ∧
      [out (.unmask 0) [47], out (.unmask 0) [48]] = [false, true] ∧
      [out (.bind 0) [47, 1, 2, 0, 1], out (.bind 0) [48, 1, 2, 0, 1], out (.bind 0) [47, 2, 2, 0, 1],
        out (.bind 0) [47, 1, 3, 0, 1], out (.bind 0) [47, 1, 2, 0, 2]] = [false, true, true, true, true] ∧
      [out (.wait 0) [0, 47, 16777215], out (.wait 0) [0, 47, 0], out (.wait 0) [0, 48, 0],
        out (.wait 0) [0, 47, 16777216]] = [false, false, true, true] ∧
      [out (.delay 0) [0, 1], out (.delay 0) [0, 16777215], out (.delay 0) [0, 0], out (.delay 0) [0, 16777216]] =
        [false, false, true, true] := by decide +kernel

theorem witness_outOfRange_frame_and_budgets :
    let out (i : Instr) (args : List Nat) : Bool := outOfRange (capture 0 args) i
    [out (.configure 0) [1, 1, 0, 1], out (.configure 0) [1000, 255, 1, 65535]] = [false, false] ∧
      [out (.configure 0) [0, 1, 0, 1], out (.configure 0) [1001, 1, 0, 1], out (.configure 0) [1, 0, 0, 1],
        out (.configure 0) [1, 256, 0, 1], out (.configure 0) [1, 1, 2, 1], out (.configure 0) [1, 1, 0, 0],
        out (.configure 0) [1, 1, 0, 65536]] = [true, true, true, true, true, true, true] ∧
      [out (.writeWindow 0) [23, 1, 9], out (.writeWindow 0) [0, 65535, 0], out (.writeWindow 0) [24, 1, 0],
        out (.writeWindow 0) [0, 0, 0], out (.writeWindow 0) [0, 65536, 0], out (.writeWindow 0) [0, 1, 10]] =
        [false, false, true, true, true, true] ∧
      [out (.writeWindow 0) [0, 1, 9 * 2 ^ 56], out (.writeWindow 0) [0, 1, 10 * 2 ^ 56]] = [false, true] ∧
      [out (.setPlanLength 0) [24], out (.setPlanLength 0) [25]] = [false, true] ∧
      [out (.armPlanSwitch 0) [255], out (.armPlanSwitch 0) [256]] = [false, true] ∧
      [out (.readPlan 0) [1, 23], out (.readPlan 0) [2, 23], out (.readPlan 0) [1, 24]] = [false, true, true] ∧
      [out (.setBudget 0) [127, 65535, 65535, 3], out (.setBudget 0) [127, 0, 65535, 3]] = [false, false] ∧
      [out (.setBudget 0) [128, 0, 0, 0], out (.setBudget 0) [0, 65536, 0, 0], out (.setBudget 0) [0, 0, 65536, 0],
        out (.setBudget 0) [0, 0, 0, 4], out (.setBudget 0) [0, 1, 2, 0]] = [true, true, true, true, true] := by
  decide +kernel

theorem witness_RangeFailureChangesNothingElse :
    (let s := asked 0 2 [128] boss;
      Captures s 0 2 (capture 2 [128]) ∧ outOfRange (capture 2 [128]) (.start 0) = true ∧
        classRow (.start 0) = some (0, 2, .manager) ∧ s.classPasses 0 .manager = true) ∧
    (let s := asked 0 24 [0, 48, 0] served;
      Captures s 0 24 (capture 24 [0, 48, 0]) ∧ outOfRange (capture 24 [0, 48, 0]) (.wait 0) = true ∧
        selfRow (.wait 0) = some (0, 24) ∧ (s.engine 0).runningTask ≠ none) ∧
    Captures (asked 0 0 [] framed) 0 0 (capture 0 []) ∧
    Captures (asked 0 40 [] framed) 0 40 (capture 40 []) ∧
    Captures (asked 0 255 [] framed) 0 255 (capture 255 []) := by
  simp only [captures_iff]; decide +kernel

theorem witness_PortsTakeWritesAndResponses :
    (State.reset.pins.resetLow = false ∧ ∀ c, (State.reset.port 7).state ≠ .busy c) ∧
      (let s := State.reset.respond 7 .done .none false [];
        s.pins.resetLow = false ∧ (s.port 7).state = .done) ∧
      (let s := asked 7 13 [] State.reset;
        s.pins.resetLow = false ∧ (s.port 7).state = .busy (capture 13 [])) ∧
      ∀ sel ∈ ([7, 17, 31] : List (BitVec 5)), sel = 7 ∨ 16 < sel.toNat :=
  ⟨⟨rfl, nofun⟩, by decide +kernel, by decide +kernel, by decide⟩

theorem witness_ProtectionViolations_by_class :
    Captures (asked 0 9 [] managed) 0 9 (capture 9 []) ∧ classRow (.haltPartition 0) = some (0, 9, .supervisor) ∧
      (asked 0 9 [] managed).classPasses 0 .supervisor = false := by
  simp only [captures_iff]; decide +kernel

theorem witness_ProtectionViolations_by_scope :
    (let s := asked 0 2 [4] (managed.setTask 4 { user with partition := 7 });
      onTaskCommand (.start 0) = true ∧ Issued s 0 2 .manager (capture 2 [4]) ∧
        outOfRange (capture 2 [4]) (.start 0) = false ∧ ((capture 2 [4]).arg 0).toNat = (4 : TaskId).val ∧
        s.taskInScope 0 4 = false) ∧
    (let s := asked 0 12 [7] managed;
      Issued s 0 12 .user (capture 12 [7]) ∧ ((capture 12 [7]).arg 0).toNat = (7 : Partition).val ∧ s.inScope 0 7 = false) ∧
    (let s := asked 3 17 [3] State.reset;
      Issued s 3 17 .supervisor (capture 17 [3]) ∧ ((capture 17 [3]).arg 0).toNat = (3 : Pu).val) := by
  simp only [issued_iff]; decide +kernel

theorem witness_ProtectionViolations_of_CREATE :
    let made (word affinity : Nat) (a : CreateArgs) : Prop :=
      Issued (asked 0 1 [word, affinity] managed) 0 1 .manager (capture 1 [word, affinity]) ∧
        createArgs (capture 1 [word, affinity]) = some a ∧
        (asked 0 1 [word, affinity] managed).effectivePrivilege 0 ≠ some .supervisor
    made (createWord 0 0 0 1 0) 4 ⟨some 0, 0, 0, .handler, .user, 4, 0⟩ ∧
      made (createWord 0 0 0 0 1) 4 ⟨some 0, 0, 0, .normal, .manager, 4, 0⟩ ∧
      (made (createWord 0 1 0 0 0) 4 ⟨some 0, 1, 0, .normal, .user, 4, 0⟩ ∧
        (asked 0 1 [createWord 0 1 0 0 0, 4] managed).inScope 0 1 = false) := by
  simp only [issued_iff]; decide +kernel

theorem witness_ProtectionViolations_of_POST :
    let s := asked 0 18 [47, 1] (served.setChannel 47 { postRights := 0xFE })
    Issued s 0 18 .user (capture 18 [47, 1]) ∧ outOfRange (capture 18 [47, 1]) (.post 0) = false ∧
      ((capture 18 [47, 1]).arg 0).toNat = (47 : ChannelId).val ∧ s.effectivePrivilege 0 ≠ some .supervisor ∧
      ∀ t, (s.engine 0).runningTask = some t →
        (s.channel 47).postRights.getLsbD (s.task t).partition.val = false := by
  simp only [issued_iff]; decide +kernel

/-! ### Witnesses: states that refuse a command -/

/-- Partition 0 is purging; no task stands in the way and no port waits. -/
def purging (s : State) : State := s.setPart 0 { s.part 0 with purge := some ⟨0, none, none, false⟩ }

/-- Task 4 is in this state. -/
def with4 (st : TaskState) (s : State) : State := s.setTask 4 { user with state := st }

theorem witness_StateFailure_lifecycle :
    let on (kind : Nat) (args : List Nat) (s : State) : Prop :=
      Issued (asked 0 kind args s) 0 (.ofNat 8 kind) .manager (capture kind args) ∧
        OnTask (asked 0 kind args s) 0 (capture kind args) 4
    let of (kind : Nat) (args : List Nat) (s : State) : TaskState := ((asked 0 kind args s).task 4).state
    (on 2 [4] (with4 .ready boss) ∧ of 2 [4] (with4 .ready boss) ≠ .dormant) ∧
      (on 2 [4] (purging (with4 .dormant boss)) ∧
        ((asked 0 2 [4] (purging (with4 .dormant boss))).part 0).purge ≠ none) ∧
      (on 3 [4] boss ∧ of 3 [4] boss = .free) ∧ (on 3 [4] (with4 .dormant boss) ∧ of 3 [4] (with4 .dormant boss) = .dormant) ∧
      (on 3 [4] (with4 .suspended boss) ∧ of 3 [4] (with4 .suspended boss) = .suspended) ∧
      (on 4 [4] (with4 .held boss) ∧ of 4 [4] (with4 .held boss) ≠ .suspended) ∧
      (on 4 [4] (purging (with4 .suspended boss)) ∧
        ((asked 0 4 [4] (purging (with4 .suspended boss))).part 0).purge ≠ none) ∧
      (on 5 [4] boss ∧ of 5 [4] boss = .free) ∧ (on 6 [4, 7] boss ∧ of 6 [4, 7] boss = .free) ∧
      (on 7 [4, 1] boss ∧ of 7 [4, 1] boss = .free) ∧
      (on 7 [4, 1] (boss.setTask 4 handler) ∧ ((asked 0 7 [4, 1] (boss.setTask 4 handler)).task 4).cls = .handler) ∧
      (on 35 [4, 2, 1, 0] boss ∧ outOfRange (capture 35 [4, 2, 1, 0]) (.setBudget 0) = false ∧
        of 35 [4, 2, 1, 0] boss = .free) := by
  dsimp only
  (repeat' apply And.intro) <;> first | decide +kernel | (simp only [issued_iff, onTask_iff]; decide +kernel)

theorem witness_StateFailure_partitions_and_CREATE :
    (let s := asked 0 10 [7] boss;
      Issued s 0 10 .supervisor (capture 10 [7]) ∧ (s.part 7).halted = none) ∧
    (let s := asked 0 11 [0] (purging boss);
      Issued s 0 11 .supervisor (capture 11 [0]) ∧ (s.part 0).purge ≠ none) ∧
    (let c := capture 1 [createWord 4 0 0 0 0, 1];
      let a : CreateArgs := ⟨some 4, 0, 0, .normal, .user, 1, 0⟩;
      let s := asked 0 1 [createWord 4 0 0 0 0, 1] (purging boss);
      let s' := asked 0 1 [createWord 4 0 0 0 0, 1] (with4 .dormant boss);
      createArgs c = some a ∧
      (Issued s 0 1 .manager c ∧ s.createAllowed 0 a = true ∧ s.createInScope 0 a = true ∧ (s.part 0).purge ≠ none) ∧
      (Issued s' 0 1 .manager c ∧ s'.createAllowed 0 a = true ∧ s'.createInScope 0 a = true ∧
        (s'.task 4).state ≠ .free)) ∧
    (let c := capture 1 [createWord 255 0 0 0 0, 1];
      let a : CreateArgs := ⟨none, 0, 0, .normal, .user, 1, 0⟩;
      let s := asked 0 1 [createWord 255 0 0 0 0, 1] { State.reset with tasks := Vector.replicate 128 user };
      Issued s 0 1 .manager c ∧ createArgs c = some a ∧ s.createAllowed 0 a = true ∧ s.createInScope 0 a = true ∧
        (s.part 0).purge = none ∧ ∀ t, (s.task t).state ≠ .free) := by
  simp only [issued_iff]; decide +kernel

theorem witness_StateFailure_engines :
    ∀ x ∈ ([(13, .faulted), (13, .idle), (13, .running 1), (13, switchOf .urgent none none), (14, .offline), (14, .faulted),
        (14, .running 1), (14, switchOf .urgent none none), (15, .idle), (15, .running 1), (15, .offline), (15, .faulted)] :
        List (Nat × EngineState)),
      Issued (asked 1 x.1 [] (engineAt 1 x.2 framed)) 1 (.ofNat 8 x.1) .puLevel (capture x.1 []) ∧
        ((asked 1 x.1 [] (engineAt 1 x.2 framed)).engine 1).st = x.2 := by
  simp only [issued_iff]; decide +kernel

/-- STOPPED, a tick period, a FREE frame, an active plan without a window. -/
def unplanned : State := { State.reset with frame := { tickPeriod := 1 } }

theorem witness_StateFailure_frame :
    (Issued (asked 0 28 [1, 1, 0, 1] boss) 0 28 .supervisor (capture 28 [1, 1, 0, 1]) ∧
      outOfRange (capture 28 [1, 1, 0, 1]) (.configure 0) = false ∧
      (asked 0 28 [1, 1, 0, 1] boss).frame.state ≠ .stopped) ∧
    (Issued (asked 0 29 [] boss) 0 29 .supervisor (capture 29 []) ∧ (asked 0 29 [] boss).frame.state ≠ .stopped) ∧
    (Issued (asked 0 29 [] State.reset) 0 29 .supervisor (capture 29 []) ∧
      (asked 0 29 [] State.reset).frame.tickPeriod = 0) ∧
    (let s := asked 0 29 [] unplanned;
      Issued s 0 29 .supervisor (capture 29 []) ∧ s.frame.activeBank.count = 0 ∧
        ¬(s.frame.syncMode = .free ∧ s.frame.countdown = 1 ∧ s.frame.standbyBank.count ≠ 0)) ∧
    (Issued (asked 0 30 [] State.reset) 0 30 .supervisor (capture 30 []) ∧
      (asked 0 30 [] State.reset).frame.state = .stopped) ∧
    (let s := asked 0 31 [0, 1, 0] { boss with frame := { openFrame with countdown := 1 } };
      Issued s 0 31 .supervisor (capture 31 [0, 1, 0]) ∧ outOfRange (capture 31 [0, 1, 0]) (.writeWindow 0) = false ∧
        s.frame.countdown ≠ 0) ∧
    (let s := asked 0 32 [24] { boss with frame := { openFrame with countdown := 255 } };
      Issued s 0 32 .supervisor (capture 32 [24]) ∧ outOfRange (capture 32 [24]) (.setPlanLength 0) = false ∧
        s.frame.countdown ≠ 0) ∧
    (let s := asked 0 33 [1] unplanned;
      Issued s 0 33 .supervisor (capture 33 [1]) ∧ ((capture 33 [1]).arg 0).toNat ≠ 0 ∧
        ((capture 33 [1]).arg 0).toNat ≤ 255 ∧ s.frame.standbyBank.count = 0) ∧
    (let s := asked 0 27 [] framed;
      selfRow (.readSelf 0) = some (0, 27) ∧ Captures s 0 27 (capture 27 []) ∧ (s.engine 0).runningTask = none) := by
  (repeat' apply And.intro) <;> first | decide +kernel | (simp only [issued_iff, captures_iff]; decide +kernel)

theorem witness_PortWithoutRunningTaskIsJudgedByClass :
    let idle := engineAt 3 .idle framed
    let down := engineAt 3 .faulted framed
    (idle.frame.state ≠ .stopped ∧ ((asked 3 23 [] idle).engine 3).runningTask = none ∧
      selfRow (.yield 3) = some (3, 23) ∧ Captures (asked 3 23 [] idle) 3 23 (capture 23 [])) ∧
    (classRow (.post 3) = some (3, 18, .user) ∧ PrivClass.user ≠ .puLevel ∧
      Captures (asked 3 18 [] idle) 3 18 (capture 18 []) ∧ ((asked 3 18 [] idle).engine 3).runningTask = none) ∧
    (down.frame.state ≠ .stopped ∧ (down.engine 3).runningTask = none ∧ (down.engine 3).st = .faulted ∧
      Captures (asked 3 13 [] down) 3 13 (capture 13 []) ∧ Captures (asked 3 15 [] down) 3 15 (capture 15 []) ∧
      Captures (asked 3 14 [] down) 3 14 (capture 14 []) ∧ Captures (asked 3 36 [] down) 3 36 (capture 36 []) ∧
      Captures (asked 3 16 [7] down) 3 16 (capture 16 [7]) ∧
      ((capture 16 [7]).arg 0).toNat = (7 : Pu).val) := by
  dsimp only
  (repeat' apply And.intro) <;> first | decide +kernel | (simp only [captures_iff]; decide +kernel)

/-! ### Witnesses: tasks -/

theorem witness_QueueMovesAreAtTheStatedPlace : user.cls = .normal ∧ handler.cls = .handler := by decide

/-- A HANDLER and a NORMAL CREATE, named and under "any", by a SUPERVISOR and by a MANAGER. -/
theorem witness_CreateFillsARecord :
    (let c := capture 1 [createWord 127 7 7 1 2, 128, 9];
      let s := asked 0 1 [createWord 127 7 7 1 2, 128, 9] boss;
      Issued s 0 1 .manager c ∧ bits (c.arg 0) 8 8 = (7 : Partition).val ∧ bits (c.arg 0) 16 8 = (7 : Priority).val ∧
        bits (c.arg 0) 24 1 = TaskClass.handler.code ∧ bits (c.arg 0) 25 2 = Privilege.supervisor.code ∧
        setArg (c.arg 1) ≠ 0 ∧ (all8.filter fun h => (setArg (c.arg 1)).getLsbD h.val).length = 1 ∧
        s.effectivePrivilege 0 = some .supervisor ∧ (s.part 7).purge = none ∧ (s.task 127).state = .free ∧
        bits (c.arg 0) 0 8 = (127 : TaskId).val) ∧
    (let c := capture 1 [createWord 255 0 0 0 0, 3, 9];
      let s := asked 0 1 [createWord 255 0 0 0 0, 3, 9] (managed.setTask 0 user);
      Issued s 0 1 .manager c ∧ bits (c.arg 0) 8 8 = (0 : Partition).val ∧ bits (c.arg 0) 16 8 = (0 : Priority).val ∧
        bits (c.arg 0) 24 1 = TaskClass.normal.code ∧ bits (c.arg 0) 25 2 = Privilege.user.code ∧
        setArg (c.arg 1) ≠ 0 ∧ s.inScope 0 0 = true ∧ (s.part 0).purge = none ∧ (s.task 2).state = .free ∧
        bits (c.arg 0) 0 8 = 255 ∧ ∀ u, u < (2 : TaskId) → (s.task u).state ≠ .free) := by
  simp only [issued_iff]; decide +kernel

/-- This command of class MANAGER about task 4 is issued by the SUPERVISOR that runs on PU 0. -/
def aimed (kind : Nat) (args : List Nat) (s : State) : Prop :=
  Issued (asked 0 kind (4 :: args) s) 0 (.ofNat 8 kind) .manager (capture kind (4 :: args)) ∧
    OnTask (asked 0 kind (4 :: args) s) 0 (capture kind (4 :: args)) 4

theorem aimed_iff {kind : Nat} {args : List Nat} {s : State} :
    aimed kind args s ↔
      (let t := asked 0 kind (4 :: args) s
       let c := capture kind (4 :: args)
       ((t.pins.resetLow = false ∧ t.capturedAt 0 = some c ∧ c.kind = .ofNat 8 kind) ∧ t.classPasses 0 .manager = true) ∧
         (c.arg 0).toNat = (4 : TaskId).val ∧ t.taskInScope 0 4 = true) := by
  simp only [aimed, issued_iff, onTask_iff]

theorem witness_StartAndResumeQueueTheTask :
    (aimed 2 [] (with4 .dormant boss) ∧ ((asked 0 2 [4] (with4 .dormant boss)).task 4).state = .dormant ∧
      ((asked 0 2 [4] (with4 .dormant boss)).part 0).purge = none) ∧
    (aimed 4 [] (with4 .suspended boss) ∧ ((asked 0 4 [4] (with4 .suspended boss)).task 4).state = .suspended ∧
      ((asked 0 4 [4] (with4 .suspended boss)).part 0).purge = none) := by
  simp only [aimed_iff]; decide +kernel

/-- Task 4 is RUNNING on PU 5, CLAIMED for it, or on its displacement stack. -/
def running4 (s : State) : State := runs 5 4 user s
def claimed4 (s : State) : State := engineAt 5 (switchOf .unwind none (some 4)) (with4 .claimed s)
def stacked4 (s : State) : State := (engineAt 5 (.running 6) (with4 .displaced s)).setStack 5 [4]

theorem witness_tasks_by_place (kind : Nat) (args : List Nat) :
    RunsOn (asked 0 kind args (running4 boss)) 4 5 ∧ ((running4 boss).task 4).state = .running ∧
      ((running4 boss).engine 5).st = .running 4 ∧
      ClaimedOn (asked 0 kind args (claimed4 boss)) 4 5 ∧ ((claimed4 boss).task 4).state = .claimed ∧
      StackedOn (asked 0 kind args (stacked4 boss)) 4 5 ∧ ((stacked4 boss).task 4).state = .displaced ∧
      RunsOn (asked 0 kind args (switchesOut 5 4 .readyHead none boss)) 4 5 ∧
      ((switchesOut 5 4 .readyHead none boss).task 4).state = .running ∧
      ((switchesOut 5 4 .readyHead none boss).engine 5).st = switchOf .suspend (some ⟨4, .readyHead⟩) none := by
  have h : RunsOn (running4 boss) 4 5 ∧ ((running4 boss).task 4).state = .running ∧
      ((running4 boss).engine 5).st = .running 4 ∧
      ClaimedOn (claimed4 boss) 4 5 ∧ ((claimed4 boss).task 4).state = .claimed ∧
      StackedOn (stacked4 boss) 4 5 ∧ ((stacked4 boss).task 4).state = .displaced ∧
      RunsOn (switchesOut 5 4 .readyHead none boss) 4 5 ∧
      ((switchesOut 5 4 .readyHead none boss).task 4).state = .running ∧
      ((switchesOut 5 4 .readyHead none boss).engine 5).st = switchOf .suspend (some ⟨4, .readyHead⟩) none := by
    simp only [runsOn_iff, claimedOn_iff, stackedOn_iff]; decide +kernel
  simp only [runsOn_iff, claimedOn_iff, stackedOn_iff] at h ⊢
  exact h

/-- SUSPEND, RETIRE, SET_PRIORITY and SET_AFFINITY reach task 4 in every one of these states. -/
theorem witness_commands_reach_the_task :
    ∀ s ∈ [with4 .ready boss, with4 .held boss, with4 .waiting boss, with4 .dormant boss, with4 .suspended boss,
        boss.setTask 4 { user with state := .waiting, waitChannel := some 3 }, running4 boss, claimed4 boss, stacked4 boss,
        switchesOut 5 4 .readyHead none boss],
      aimed 3 [] s ∧ aimed 5 [] s ∧ aimed 6 [7] s ∧ aimed 7 [0xDF] s ∧ aimed 7 [0x20] s ∧
        (s.part (s.task 4).partition).purge = none ∧ (s.task 4).state ≠ .free ∧ (s.task 4).cls = .normal ∧
        (s.task 4).priority ≠ 7 := by
  simp only [aimed_iff]; decide +kernel

/-- RETIRE of a task whose partition is purging: one that is the last, and one that is RUNNING. -/
theorem witness_RetiringFreesTheRecord_while_purging :
    ∀ s ∈ [purging (with4 .dormant boss), purging (running4 boss)],
      aimed 5 [] s ∧ (s.part (s.task 4).partition).purge ≠ none ∧ (s.task 4).state ≠ .free := by
  simp only [aimed_iff]; decide +kernel

theorem witness_SetPriority_of_handlers :
    (aimed 6 [0] (readyTask 4 handler boss) ∧ ((readyTask 4 handler boss).task 4).priority = 0) ∧
    (aimed 6 [1] (readyTask 4 handler boss) ∧ ((readyTask 4 handler boss).task 4).cls = .handler ∧
      ((readyTask 4 handler boss).task 4).state = .ready) ∧
    (aimed 6 [1] (runs 5 4 handler boss) ∧ RunsOn (runs 5 4 handler boss) 4 5 ∧
      ((runs 5 4 handler boss).engine 5).st = .running 4 ∧ ((runs 5 4 handler boss).task 4).cls = .handler) := by
  simp only [aimed_iff, runsOn_iff]; decide +kernel

theorem witness_SetAffinity_keeps_and_loses_the_PU :
    (setArg 0x20).getLsbD (5 : Pu).val = true ∧ (setArg 0xDF).getLsbD (5 : Pu).val = false ∧ setArg 0xDF ≠ 0 := by decide

/-! ### Witnesses: reads -/

theorem witness_ReadsChangeOnlyTheirPort :
    (Issued (asked 0 8 [1] served) 0 8 .user (capture 8 [1]) ∧ OnTask (asked 0 8 [1] served) 0 (capture 8 [1]) 1) ∧
      (Captures (asked 0 27 [] served) 0 27 (capture 27 []) ∧ ((asked 0 27 [] served).engine 0).runningTask = some 1) ∧
      (∀ k : Partition, Issued (asked 0 12 [k.val] boss) 0 12 .user (capture 12 [k.val]) ∧
        ((capture 12 [k.val]).arg 0).toNat = k.val ∧ (asked 0 12 [k.val] boss).inScope 0 k = true) ∧
      (∀ ch ∈ ([0, 15, 16, 47] : List ChannelId), Issued (asked 0 19 [ch.val] served) 0 19 .user (capture 19 [ch.val]) ∧
        ((capture 19 [ch.val]).arg 0).toNat = ch.val) ∧
      Captures (asked 7 36 [] framed) 7 36 (capture 36 []) ∧
      (∀ q : Pu, Captures (asked 7 16 [q.val] framed) 7 16 (capture 16 [q.val]) ∧
        ((capture 16 [q.val]).arg 0).toNat = q.val) ∧
      ((switchesOut 0 1 .readyHead none framed).engine 0).st = switchOf .suspend (some ⟨1, .readyHead⟩) none ∧
      ((with4 .ready boss).task 4).state = .ready ∧
      (((stacked4 boss).setStack 5 [7, 4, 8, 9]).engine 5).stack = [7] ++ 4 :: [8, 9] := by
  (repeat' apply And.intro) <;>
    first | decide +kernel | (simp only [issued_iff, onTask_iff, captures_iff]; decide +kernel)

theorem witness_ReadPlanShowsTheWindow :
    (Captures (asked 0 34 [0, 0] served) 0 34 (capture 34 [0, 0]) ∧
      (asked 0 34 [0, 0] served).classPasses 0 .supervisor = false) ∧
    (∀ args ∈ [[2, 0], [0, 24]], Captures (asked 0 34 args boss) 0 34 (capture 34 args) ∧
      (asked 0 34 args boss).classPasses 0 .supervisor = true ∧
      (1 < ((capture 34 args).arg 0).toNat ∨ 23 < ((capture 34 args).arg 1).toNat)) ∧
    (∀ x ∈ ([(.a, 0), (.b, 23)] : List (BankId × WindowIndex)),
      Captures (asked 0 34 [x.1.code, x.2.val] boss) 0 34 (capture 34 [x.1.code, x.2.val]) ∧
      ((capture 34 [x.1.code, x.2.val]).arg 0).toNat = x.1.code ∧
      ((capture 34 [x.1.code, x.2.val]).arg 1).toNat = x.2.val) := by
  (repeat' apply And.intro) <;> first | decide +kernel | (simp only [captures_iff]; decide +kernel)

/-! ### Witnesses: the Selector -/

/-- PU 0 running task 1, handler 4 ready there; PU 0 running handler 1 of priority 3, handler 4 more urgent. -/
def urgentOverNormal : State := readyTask 4 handler served
def urgentOverHandler : State := readyTask 4 handler (runs 0 1 { handler with priority := 3 } framed)
def equalHandlers : State := readyTask 4 { handler with priority := 3 } (runs 0 1 { handler with priority := 3 } framed)

theorem witness_EligibleAndRunnableTasks :
    (framed.firstRunnable 0 .none = none ∧ (framed.engine 0).st = .offline) ∧
      (urgentOverNormal.firstRunnable 0 .none = some 4) ∧
      (((urgentOverNormal.setPart 0 { halted := some .command }).engine 0).st ≠ .offline ∧
        ((urgentOverNormal.setPart 0 { halted := some .command }).engine 0).st ≠ .faulted ∧
        (urgentOverNormal.setPart 0 { halted := some .command }).frame.state = .framing ∧
        (urgentOverNormal.setPart 0 { halted := some .command }).firstRunnable 0 .none = none) := by decide +kernel

/-- No re-evaluation of PU 0 outstanding; one, with an older one of PU 1 before it; two of PU 0; one from STOPPED. -/
theorem witness_Eligible_by_the_window_a_place_request_judges :
    let waiting (s : State) : List Request := s.requests.flatten
    let two : State := { framed with requests := [[.window 1 none, .window 0 (some .idle)], [.window 0 (some .opened)]] }
    (∀ former, .window 0 former ∉ waiting (outstanding (.window 1 none) framed)) ∧
    (waiting two = [.window 1 none] ++ .window 0 (some .idle) :: [.window 0 (some .opened)] ∧
      (∀ e, .window 0 e ∉ [Request.window 1 none]) ∧ .window 0 none ∉ [Request.window 0 (some .opened)]) ∧
    .window 0 none ∈ waiting (betweenWindows none .opened) := by
  refine ⟨fun former => ?_, ⟨?_, fun e => ?_, ?_⟩, ?_⟩
  · simp [outstanding]
  · decide +kernel
  · simp
  · decide +kernel
  · decide +kernel

theorem witness_PickReturnsTheMostUrgentCandidate :
    ((readyTask 4 user served).pickBelow 0 .none 1 = some 4) ∧ ((readyTask 4 user served).pickBelow 0 .none 0 = none) ∧
      (served.pickBelow 0 (.head 1) 8 = some 1) ∧ ((served.task 1).cls = .normal) := by decide +kernel

theorem witness_UnwindTriesUrgentThenStackThenPick :
    let s := framed.setTask 1 user
    ((s.task 1).cls = .normal) ∧
      (let k := engineAt 0 .idle s
       ((k.setStack 0 []).eligibleBase 0 1 = true ∧ (k.setStack 0 []).pickBelow 0 .none (k.task 1).priority.val = none)) ∧
      ((s.setStack 0 []).eligibleBase 0 1 = false) ∧
      (urgentOverNormal.goesAhead (some 4) 1 = true) ∧
      (equalHandlers.goesAhead (some 4) 1 = false ∧ equalHandlers.takenUp 0 1 = true) := by decide +kernel

/-- The outgoing task 1 stands as the top: a NORMAL one, then a handler, in each case of the statement. -/
theorem witness_Unwind_of_a_standing_task :
    let none' (s : State) : Prop := s.firstRunnable 0 .none = none
    let up (s : State) : Prop := s.eligibleBase 0 1 = true ∧ s.pickBelow 0 .none (s.task 1).priority.val = none
    (((urgentOverNormal.task 1).cls = .normal ∧ urgentOverNormal.firstRunnable 0 .none = some 4) ∧
      (none' served ∧ up served) ∧ (none' (runs 0 1 user (framed.setPart 0 { halted := some .command })) ∧
        ¬ up (runs 0 1 user (framed.setPart 0 { halted := some .command })))) ∧
    ((urgentOverHandler.task 1).cls = .handler ∧ urgentOverHandler.firstRunnable 0 .none = some 4 ∧
      (urgentOverHandler.task 4).priority < (urgentOverHandler.task 1).priority) ∧
    (equalHandlers.firstRunnable 0 .none = some 4 ∧ ¬ (equalHandlers.task 4).priority < (equalHandlers.task 1).priority ∧
      (equalHandlers.part 0).halted = none ∧ (equalHandlers.part 0).purge = none ∧ equalHandlers.frame.state = .framing) ∧
    (none' (equalHandlers.setPart 0 { halted := some .command }) ∧
      ((equalHandlers.setPart 0 { halted := some .command }).part 0).halted ≠ none) ∧
    ∀ st ∈ [FrameState.stopped, .armed], none' { equalHandlers with frame := { openFrame with state := st } } := by
  decide +kernel

theorem witness_ClaimsAreTakenFromAndReturnedToQueues :
    ((engineAt 0 (switchOf .unwind none (some 4)) framed).engine 0).st = .switching ⟨.unwind, none, some 4, 25, 25⟩ := by
  decide +kernel

/-- The place request of task 4 is outstanding. -/
def placing (s : State) : State := outstanding (.place 4) (readyTask 4 user s)

theorem witness_PlaceRequest_steps_none_and_one :
    (∀ s ∈ [placing framed, outstanding (.place 4) framed, outstanding (.place 4) (readyTask 4 handler framed)],
      NextRequest s (fun r => r = .place 4) 0 (.place 4) []) ∧
    ((framed.task 4).state ≠ .ready ∧ (handler.cls = .handler) ∧ ((placing framed).task 4).state = .ready ∧
      ((placing framed).task 4).cls = .normal) ∧
    (∀ st ∈ [EngineState.idle, switchOf .unwind none none],
      let s0 : State := { placing (engineAt 6 st framed) with requests := [] }
      (s0.engine 6).st = st ∧ s0.eligible 6 4 = true ∧ ∀ q', s0.eligible q' 4 = true → 6 ≤ q') ∧
    (∀ q, ({ placing framed with requests := [] } : State).eligible q 4 = false) := by
  simp only [nextRequest_iff]; decide +kernel

/-- PU 0 and PU 2 run or claim less urgent tasks of the same priority. -/
theorem witness_PlaceRequest_preempts_and_retargets :
    (let s := placing (runs 2 5 { user with priority := 7 } (runs 0 1 { user with priority := 7 } framed))
     let s0 : State := { s with requests := [] }
     NextRequest s (fun r => r = .place 4) 0 (.place 4) [] ∧ s0.eligible 0 4 = true ∧ s0.eligible 2 4 = true ∧
      (s.engine 0).st = .running 1 ∧ (s.engine 2).st = .running 5 ∧ (s.task 4).priority < (s.task 1).priority ∧
      (s.task 1).priority = (s.task 5).priority ∧ ∀ q, s0.eligible q 4 = true → q = 0 ∨ q = 2) ∧
    (let s := placing (engineAt 3 (switchOf .unwind none (some 5))
      (framed.setTask 5 { user with state := .claimed, priority := 7 }))
     let s0 : State := { s with requests := [] }
     NextRequest s (fun r => r = .place 4) 0 (.place 4) [] ∧ s0.eligible 3 4 = true ∧
      (s.engine 3).claimedTask = some 5 ∧ (s.task 5).cls = .normal ∧ (s.task 4).priority < (s.task 5).priority ∧
      (∀ q, s0.eligible q 4 = true → q = 3) ∧ (s.engine 3).runningTask = none) := by
  simp only [nextRequest_iff]; decide +kernel

theorem witness_UrgentArrival_on_idle_and_running :
    (framed.firstRunnable 0 .none = none) ∧
    ((engineAt 0 .idle (readyTask 4 handler framed)).firstRunnable 0 .none = some 4) ∧
    (urgentOverNormal.firstRunnable 0 .none = some 4 ∧ (urgentOverNormal.engine 0).st = .running 1 ∧
      (urgentOverNormal.task 1).cls = .normal) ∧
    (urgentOverHandler.firstRunnable 0 .none = some 4 ∧ (urgentOverHandler.engine 0).st = .running 1 ∧
      (urgentOverHandler.task 1).cls = .handler ∧ (urgentOverHandler.task 4).priority < (urgentOverHandler.task 1).priority ∧
      (urgentOverHandler.setStack 0 [5, 6, 7]).firstRunnable 0 .none = some 4 ∧
      ((urgentOverHandler.setStack 0 [5, 6, 7]).engine 0).stack.length < 4 ∧
      (urgentOverHandler.setStack 0 [5, 6, 7, 8]).firstRunnable 0 .none = some 4 ∧
      4 ≤ ((urgentOverHandler.setStack 0 [5, 6, 7, 8]).engine 0).stack.length) ∧
    (equalHandlers.firstRunnable 0 .none = some 4 ∧
      (equalHandlers.task 1).priority ≤ (equalHandlers.task 4).priority) := by decide +kernel

/-- PU 0 SWITCHING out task 1 to READY-head, with task 5 claimed or nothing, and handler 4 of priority 3 ready there. -/
def arriving (claimed : Option TaskRecord) (out : TaskRecord) : State :=
  let s := readyTask 4 { handler with priority := 3 } (framed.setTask 1 { out with state := .running })
  match claimed with
  | some r => engineAt 0 (switchOf .preempt (some ⟨1, .readyHead⟩) (some 5)) (s.setTask 5 { r with state := .claimed })
  | none => engineAt 0 (switchOf .preempt (some ⟨1, .readyHead⟩) none) s

theorem witness_UrgentArrival_on_switching :
    (∀ s ∈ [arriving none user, arriving none handler, arriving (some user) user,
        arriving (some { handler with priority := 4 }) user, arriving (some { handler with priority := 3 }) user],
      s.firstRunnable 0 .none = some 4) ∧
    ((arriving (some { handler with priority := 4 }) user).task 4).priority <
      ((arriving (some { handler with priority := 4 }) user).task 5).priority ∧
    ((arriving (some { handler with priority := 3 }) user).task 5).priority ≤
      ((arriving (some { handler with priority := 3 }) user).task 4).priority ∧
    ((arriving none user).task 1).cls = .normal ∧ ((arriving none handler).task 1).cls = .handler ∧
    ((arriving (some user) user).task 5).cls = .normal := by decide +kernel

theorem witness_UrgentArrival_requests :
    ∀ st ∈ [EngineState.idle, .offline, .faulted], ∀ kind ∈ [UrgentKind.arrival, .reEvaluation],
      NextRequest (outstanding (.urgent 0 kind) (engineAt 0 st framed)) (fun r => r = .urgent 0 kind) 0 (.urgent 0 kind) [] ∧
        ((outstanding (.urgent 0 kind) (engineAt 0 st framed)).engine 0).st = st := by
  simp only [nextRequest_iff]; decide +kernel

theorem witness_RowsNotEnabledChangeNothing :
    (classRow (.create 0) = some (0, 1, .manager) ∧ selfRow (.yield 0) = some (0, 23)) ∧
      State.reset.capturedAt 0 = none ∧
      ((asked 0 2 [] framed).capturedAt 0 = some (capture 2 []) ∧ (capture 2 []).kind ≠ 1) ∧
      (after .hardReset State.reset).pins.resetLow = true ∧
      (∀ s ∈ [State.reset, { State.reset with requests := [[.place 4, .tickFrame]] }],
        nthRequest (fun r => r = .place 5) 0 s.requests = none ∧ nthRequest (fun r => r = .tickFrame) 0 s.requests = none ∧
        nthRequest (fun r => r = .urgent 0 .arrival) 0 s.requests = none ∧
        nthRequest (Request.isWindowOf 0) 0 s.requests = none ∧ nthRequest (fun r => r = .halt 0 1) 0 s.requests = none ∧
        nthRequest (fun r => r = .budgetFrameStart) 0 s.requests = none ∧
        nthRequest Request.isDelayTick 0 s.requests = none ∧ nthRequest (fun r => r = .charge 0) 0 s.requests = none) := by
  decide +kernel

/-! ### Witnesses: partitions -/

def halted0 (s : State) : State := s.setPart 0 { s.part 0 with halted := some .command }

/-- PU 2 runs task 5, PU 3 has claimed task 6; both are of partition 0. -/
def atWork : State :=
  engineAt 3 (switchOf .unwind none (some 6)) (State.setTask 6 { user with state := .claimed } (runs 2 5 user boss))

theorem witness_HaltSwitchesThePartitionOut :
    ((halted0 boss).part 0).halted ≠ none ∧ (atWork.part 0).halted = none ∧
      ((atWork.engine 2).st = .running 5 ∧ (atWork.task 5).partition = 0) ∧ (atWork.engine 3).claimedTask = some 6 ∧
      ((atWork.engine 7).runningTask = none ∧ (atWork.engine 7).claimedTask = none) ∧
      (Issued (asked 0 9 [0] atWork) 0 9 .supervisor (capture 9 [0]) ∧ ((capture 9 [0]).arg 0).toNat = (0 : Partition).val) ∧
      NextRequest (outstanding (.halt 0 5) atWork) (fun r => r = .halt 0 5) 0 (.halt 0 5) [] := by
  simp only [issued_iff, nextRequest_iff]; decide +kernel

/-- One engine at a halt: PU 2 runs a task of the partition and claims nothing, PU 3 has a NORMAL claim of it, then a handler. -/
theorem witness_HaltSwitchesThePartitionOut_on_one_engine :
    let h := atWork.setTask 6 { handler with state := .claimed }
    ((atWork.engine 2).runningTask = some 5 ∧ (atWork.task 5).partition = 0 ∧
      (((halted0 atWork).askOut 2 .halt .readyHead).engine 2).claimedTask = none) ∧
    ((atWork.engine 3).runningTask = none ∧ (atWork.engine 3).claimedTask = some 6 ∧ (atWork.task 6).partition = 0 ∧
      (atWork.task 6).cls = .normal) ∧
    ((h.engine 3).runningTask = none ∧ (h.engine 3).claimedTask = some 6 ∧ (h.task 6).partition = 0 ∧
      (h.task 6).cls = .handler) := by
  decide +kernel

theorem witness_ReleasePlacesTheReadyTasksInOrder :
    Issued (asked 0 10 [0] (halted0 (readyTask 4 user boss))) 0 10 .supervisor (capture 10 [0]) ∧
      ((capture 10 [0]).arg 0).toNat = (0 : Partition).val ∧
      ((asked 0 10 [0] (halted0 (readyTask 4 user boss))).part 0).halted ≠ none := by
  simp only [issued_iff]; decide +kernel

/-- The issuer's running task is of the partition, or of another. -/
theorem witness_PurgeRetiresThePartition :
    (let s := asked 0 11 [0] atWork
     Issued s 0 11 .supervisor (capture 11 [0]) ∧ (s.part 0).purge = none ∧ (s.engine 0).runningTask = some 1 ∧
      (s.task 1).partition = 0) ∧
    (let s := asked 0 11 [7] atWork
     Issued s 0 11 .supervisor (capture 11 [7]) ∧ (s.part 7).purge = none ∧ (s.task 1).partition ≠ 7) := by
  simp only [issued_iff]; decide +kernel

theorem witness_PurgeEndsWhenTheOthersAreFree :
    let alive (s : State) (t : TaskId) : Prop := (s.task t).state ≠ .free ∧ (s.task t).partition = 0
    let g (o : Option TaskId) : Purge := ⟨1, o, some 0, false⟩
    (alive atWork 5 ∧ (g (some 1)).deferred ≠ some 5) ∧
      (∀ t : TaskId, ¬ ((framed.task t).state ≠ .free ∧ (framed.task t).partition = 0)) ∧
      (alive boss 1 ∧ (g (some 1)).deferred = some 1 ∧
        ∀ t : TaskId, (boss.task t).state ≠ .free → t = 1) := by decide +kernel

theorem witness_purges_not_ended_and_ended :
    ((purging boss).part 0).purge = some ⟨0, none, none, false⟩ ∧
      ((boss.setPart 0 { purge := some ⟨1, some 1, none, true⟩ }).part 0).purge = some ⟨1, some 1, none, true⟩ := by
  decide +kernel

/-! ### Witnesses: engines -/

/-- PU 0 SWITCHING out task 1 to this destination. -/
def leaving (d : Dest) (s : State) : State := switchesOut 0 1 d none s

theorem witness_SwitchRequestsActByEngineState :
    ((served.engine 0).st = .running 1) ∧
      (∀ d ∈ [Dest.readyHead, .displaced, .held, .suspended .command, .free],
        ((leaving d framed).engine 0).st = switchOf .suspend (some ⟨1, d⟩) none) ∧
      (Dest.rank .displaced < Dest.rank .held ∧ Dest.rank .held ≤ Dest.rank (.suspended .budget)) ∧
      (((engineAt 0 (switchOf .unwind none none) framed).engine 0).st = switchOf .unwind none none) ∧
      (∀ st ∈ [EngineState.idle, .offline, .faulted], ((engineAt 0 st framed).engine 0).st = st) := by decide +kernel

theorem witness_NewChoiceClaimsOrWithdraws :
    (let s := leaving (.suspended .command) framed
     (s.unwind 0 none .none).chosen = none) ∧
    (let s := readyTask 4 user (leaving (.suspended .command) framed)
     (s.unwind 0 none .none).chosen = some 4) ∧
    (let s := leaving .displaced framed
     (s.unwind 0 (some 1) .none).chosen = some 1) ∧
    (let s := leaving .readyHead framed
     (s.task 1).cls = .normal ∧ (s.unwind 0 none (.head 1)).chosen = some 1) := by decide +kernel

theorem witness_JoinLeaveAndTheOwnChoice :
    (Issued (asked 7 13 [] framed) 7 13 .puLevel (capture 13 []) ∧ ((asked 7 13 [] framed).engine 7).st = .offline) ∧
      (let s := engineAt 7 .idle framed
       Issued (asked 7 14 [] s) 7 14 .puLevel (capture 14 []) ∧ (s.engine 7).st = .idle ∧
        (s.unwind 7 none .none).chosen = none ∧ ((readyTask 4 user s).unwind 7 none .none).chosen = some 4) := by
  simp only [issued_iff]; decide +kernel

theorem witness_HandoverCompletesTheSwitch :
    ∀ claimed ∈ [none, some (4 : TaskId)], ∀ flag ∈ [0, 1],
      let s := asked 0 15 [55, flag] (switchesOut 0 1 .readyHead claimed (with4 .claimed framed))
      Captures s 0 15 (capture 15 [55, flag]) ∧
        (s.engine 0).st = switchOf .suspend (some ⟨1, .readyHead⟩) claimed := by
  simp only [captures_iff]; decide +kernel

theorem witness_TakingAPuDownReturnsItsWork :
    (∀ c, (served.port 0).state ≠ .busy c) ∧ ((asked 0 15 [] served).port 0).state = .busy (capture 15 []) ∧
      (((purging served).part 0).purge = some ⟨0, none, none, false⟩ ∧ (served.part 0).purge = none) :=
  ⟨nofun, by decide +kernel, by decide +kernel⟩

theorem witness_DeadlineExpiryAndResetPu :
    (served.pins.resetLow = false ∧ served.swreq 0 = false) ∧
      (∀ s ∈ [leaving .free framed, engineAt 0 (switchOf .unwind none none) framed],
        s.pins.resetLow = false ∧ (s.engine 0).timeLeft = some 25 ∧ s.noneSooner 25 = true) ∧
      (((engineAt 1 (switchLeft 24) (engineAt 0 (switchLeft 25) framed)).engine 0).st = switchLeft 25 ∧
        ((engineAt 1 (switchLeft 24) (engineAt 0 (switchLeft 25) framed)).engine 1).st = switchLeft 24) ∧
      ((leaving .free framed).engine 0).runningTask = some 1 ∧
      ((engineAt 0 (switchOf .unwind none none) framed).engine 0).runningTask = none ∧
      (Issued (asked 0 17 [7] boss) 0 17 .supervisor (capture 17 [7]) ∧ ((asked 0 17 [7] boss).engine 7).runningTask = none) ∧
      (Issued (asked 0 17 [2] atWork) 0 17 .supervisor (capture 17 [2]) ∧
        ((asked 0 17 [2] atWork).engine 2).runningTask = some 5) := by
  simp only [issued_iff]; decide +kernel

/-- PU 0 has claimed task 4 of priority 3 beside an outgoing task 1 of priority 7 bound for READY-head. -/
def claiming (s : State) : State :=
  switchesOut 0 1 .readyHead (some 4) (s.setTask 4 { user with state := .claimed, priority := 3 })

/-- FRAMING, with PU 0's entry IDLE. -/
def closed : State :=
  { State.reset with frame :=
      { openFrame with bankA := ⟨2, Vector.replicate 24 ⟨2, Vector.replicate 8 .idle⟩⟩ } }

theorem witness_WindowReEvaluation_on_running :
    (∀ former ∈ [none, some MapEntry.idle],
      NextRequest (outstanding (.window 0 former) served) (Request.isWindowOf 0) 0 (.window 0 former) []) ∧
      ((served.engine 0).working = true ∧ (framed.engine 0).working = false ∧ State.reset.frame.state = .stopped) ∧
      ((runs 0 1 handler framed).task 1).cls = .handler ∧
      (((runs 0 1 user closed).engine 0).st = .running 1 ∧
        closed.frame.activeBank.windows[closed.frame.windowIndex].map[(0 : Pu)] = .idle) ∧
      (framed.frame.activeBank.windows[framed.frame.windowIndex].map[(0 : Pu)] = .opened ∧
        (readyTask 4 user (runs 0 1 { user with priority := 1 } framed)).pickBelow 0 .none 1 = some 4 ∧
        served.pickBelow 0 .none 0 = none) := by
  simp only [nextRequest_iff]; decide +kernel

theorem witness_WindowReEvaluation_on_switching :
    (∀ s ∈ [switchesOut 0 1 .displaced (some 4) framed, (claiming framed).setStack 0 [5],
        (claiming framed).setTask 1 { handler with state := .running }],
      s.swreq 0 = true ∧ (s.engine 0).claimedTask ≠ none ∧ ((s.engine 0).stack ≠ [] ∨ (s.engine 0).pendingDest = some .displaced ∨
        (s.engine 0).runningTask = some 1 ∧ (s.task 1).cls = .handler)) ∧
    ((leaving .readyHead framed).engine 0).claimedTask = none ∧
    (((claiming closed).engine 0).claimedTask = some 4 ∧ ((claiming closed).task 4).cls = .normal) ∧
    (let s := claiming framed
     let x := s.outgoingAtHead ⟨.suspend, some ⟨1, .readyHead⟩, some 4, 25, 25⟩
     (s.engine 0).st = switchOf .suspend (some ⟨1, .readyHead⟩) (some 4) ∧ s.pickBelow 0 x 3 = some 1 ∧
      (s.setTask 1 { user with state := .running, priority := 7 }).pickBelow 0 x 3 = none ∧
      (readyTask 6 user (s.setTask 1 { user with state := .running, priority := 7 })).pickBelow 0 x 3 = some 6) := by
  decide +kernel

/-! ### Witnesses: channels and waits -/

theorem witness_ArrivalFollowsTheTable :
    (∀ masked ∈ [true, false], ∀ mode ∈ [ChannelMode.signal, .pulse], ∀ d ∈ [Disposition.drop, .hold],
      (State.reset.setChannel 47 { masked := masked, mode := mode, disposition := d }).channel 47 =
        { masked := masked, mode := mode, disposition := d }) ∧
    (∀ x ∈ ([(16, 1), (47, 255)] : List (ChannelId × Nat)),
      Issued (asked 0 18 [x.1.val, x.2] boss) 0 18 .user (capture 18 [x.1.val, x.2]) ∧
        ((capture 18 [x.1.val, x.2]).arg 0).toNat = x.1.val ∧ ((capture 18 [x.1.val, x.2]).arg 1).toNat = x.2 ∧
        boss.effectivePrivilege 0 = some .supervisor) ∧
    (let s := asked 0 18 [47, 1] (served.setChannel 47 { postRights := 1 })
     Issued s 0 18 .user (capture 18 [47, 1]) ∧ (s.engine 0).runningTask = some 1 ∧
      (s.channel 47).postRights.getLsbD (s.task 1).partition.val = true) ∧
    (∀ n : Line, ∀ level ∈ [true, false],
      ({ State.reset with pins := { events := if level then 0 else 0xFFFF } } : State).pins.events.getLsbD n.val ≠ level) ∧
    (State.reset.channel 0).edge = .rising ∧ (State.reset.pins.events.getLsbD 15 = false) := by
  simp only [issued_iff]; decide +kernel

theorem witness_ChannelCommandsSetUpTheChannel :
    (∀ ch ∈ ([0, 15, 16, 47] : List ChannelId), ∀ kind ∈ [21, 22],
      ((capture kind [ch.val]).arg 0).toNat = ch.val ∧
        Issued (asked 0 kind [ch.val] boss) 0 (.ofNat 8 kind) .supervisor (capture kind [ch.val])) ∧
    (∀ masked ∈ [true, false], ∀ mode ∈ [ChannelMode.signal, .pulse],
      (boss.setChannel 3 { masked := masked, mode := mode }).channel 3 = { masked := masked, mode := mode }) ∧
    (∀ mode ∈ [ChannelMode.signal, .pulse], ∀ edge ∈ [EdgeSel.rising, .falling, .both], ∀ d ∈ [Disposition.hold, .drop],
      let c := capture 20 [47, mode.code, edge.code, 1, d.code, 255]
      Issued (asked 0 20 [47, mode.code, edge.code, 1, d.code, 255] boss) 0 20 .supervisor c ∧
        (c.arg 0).toNat = (47 : ChannelId).val ∧ (c.arg 1).toNat = mode.code ∧ (c.arg 2).toNat = edge.code ∧
        (c.arg 4).toNat = d.code) := by
  simp only [issued_iff]; decide +kernel

theorem witness_WakesAndWaitListsKeepTheirOrder :
    NextRequest (outstanding (.tickDelay 5) framed) Request.isDelayTick 0 (.tickDelay 5) [] := by
  simp only [nextRequest_iff]; decide +kernel

/-! ### Witnesses: self commands -/

theorem witness_SelfCommandsOnARunningPu :
    (∀ x ∈ ([(0, 0), (47, 16777215)] : List (ChannelId × Nat)),
      let s := asked 0 24 [7, x.1.val, x.2] served
      (s.engine 0).st = .running 1 ∧ Captures s 0 24 (capture 24 [7, x.1.val, x.2]) ∧
        ((capture 24 [7, x.1.val, x.2]).arg 1).toNat = x.1.val ∧
        ((capture 24 [7, x.1.val, x.2]).arg 2).toNat = (BitVec.ofNat 32 x.2).toNat) ∧
    (∀ ch : Channel, ch ∈ [({ masked := false, pendingCount := 1 } : Channel)] →
      ch.mode = .signal ∧ ch.masked = false ∧ ch.pendingCount ≠ 0) ∧
    (∀ n ∈ [1, 16777215], Captures (asked 0 25 [7, n] served) 0 25 (capture 25 [7, n]) ∧
      ((capture 25 [7, n]).arg 1).toNat = (BitVec.ofNat 32 n).toNat) ∧
    Captures (asked 0 26 [7] served) 0 26 (capture 26 [7]) ∧
    Captures (asked 0 23 [7] served) 0 23 (capture 23 [7]) ∧
    ((served.setTask 1 { served.task 1 with resumeWord := 7 }).unwind 0 none (.tail 1)).chosen = some 1 ∧
    ((readyTask 4 user (served.setTask 1 { served.task 1 with resumeWord := 7 })).unwind 0 none (.tail 1)).chosen =
      some 4 := by
  (repeat' apply And.intro) <;> first | decide +kernel | (simp only [captures_iff]; decide +kernel)

theorem witness_SelfCommandsOnASwitchingPu :
    ∀ d ∈ [Dest.readyHead, .displaced, .held, .suspended .command, .free],
      let s := (leaving d framed).setChannel 16 { masked := false, pendingCount := 1 }
      (s.engine 0).st = switchOf .suspend (some ⟨1, d⟩) none ∧
        Captures (asked 0 23 [7] s) 0 23 (capture 23 [7]) ∧ Captures (asked 0 24 [7, 16, 0] s) 0 24 (capture 24 [7, 16, 0]) ∧
        Captures (asked 0 24 [7, 47, 16777215] s) 0 24 (capture 24 [7, 47, 16777215]) ∧
        Captures (asked 0 25 [7, 1] s) 0 25 (capture 25 [7, 1]) ∧ Captures (asked 0 26 [7] s) 0 26 (capture 26 [7]) ∧
        (s.channel 16).mode = .signal ∧ (s.channel 16).pendingCount ≠ 0 ∧ (s.channel 47).masked = true := by
  simp only [captures_iff]; decide +kernel

/-! ### Witnesses: the Frame Unit -/

theorem witness_ConfigurationAndPlanAreWritten :
    (∀ x ∈ ([([1, 1, 0, 1], .free), ([1000, 255, 1, 65535], .sync)] : List (List Nat × SyncMode)),
      let s := asked 0 28 x.1 State.reset
      Issued s 0 28 .supervisor (capture 28 x.1) ∧ ((capture 28 x.1).arg 2).toNat = x.2.code ∧ s.frame.state = .stopped) ∧
    (∀ id ∈ [BankId.a, .b], ∀ x ∈ ([(0, 1), (23, 65535)] : List (WindowIndex × Nat)),
      let c := capture 31 [x.1.val, x.2, 0x0807060504030209]
      let s := asked 0 31 [x.1.val, x.2, 0x0807060504030209] { boss with frame := { openFrame with active := id } }
      Issued s 0 31 .supervisor c ∧ (c.arg 0).toNat = x.1.val ∧ (c.arg 1).toNat = x.2 ∧ s.frame.countdown = 0 ∧
        s.frame.active = id) ∧
    (∀ n : Pu, bits ((capture 31 [0, 1, 0x0807060504030209]).arg 2) (8 * n.val) 8 =
      ((#v[.idle, .part 2, .part 3, .part 4, .part 5, .part 6, .part 7, .opened] : Vector MapEntry 8)[n]).code) ∧
    (∀ n ∈ [0, 1, 255], Issued (asked 0 33 [n] boss) 0 33 .supervisor (capture 33 [n]) ∧
      ((capture 33 [n]).arg 0).toNat = (BitVec.ofNat 8 n).toNat) ∧ boss.frame.standbyBank.count ≠ 0 := by
  (repeat' apply And.intro) <;> first | decide +kernel | (simp only [issued_iff]; decide +kernel)

theorem witness_SetPlanLengthWritesTheStandbyCount :
    (Captures (asked 0 32 [24] served) 0 32 (capture 32 [24]) ∧
      (asked 0 32 [24] served).classPasses 0 .supervisor = false) ∧
    (∀ id ∈ [BankId.a, .b], ∀ n ∈ [0, 24, 25], ∀ countdown ∈ [0, 1, 255],
      let s := asked 0 32 [n] { boss with frame := { openFrame with active := id, countdown := countdown } }
      Captures s 0 32 (capture 32 [n]) ∧ s.classPasses 0 .supervisor = true ∧ ((capture 32 [n]).arg 0).toNat = n) := by
  simp only [captures_iff]; decide +kernel

theorem witness_FrameStartBringsWindowZeroIntoForce :
    (∀ mode ∈ [SyncMode.free, .sync],
      let s := asked 0 29 [] { State.reset with frame := { openFrame with state := .stopped, syncMode := mode } }
      Issued s 0 29 .supervisor (capture 29 []) ∧ s.frame.state = .stopped ∧ s.frame.tickPeriod ≠ 0 ∧
        s.frame.activeBank.count ≠ 0 ∧ s.frame.syncMode = mode) ∧
    (let s := asked 0 29 [] { unplanned with frame := { unplanned.frame with countdown := 1, bankB := ⟨1, Vector.replicate 24 {}⟩ } }
     Issued s 0 29 .supervisor (capture 29 []) ∧ s.frame.activeBank.count = 0 ∧ s.frame.syncMode = .free ∧
      s.frame.countdown = 1 ∧ s.frame.standbyBank.count ≠ 0) := by
  simp only [issued_iff]; decide +kernel

theorem witness_StopScheduleSwitchesEveryPuOut :
    Issued (asked 0 30 [] atWork) 0 30 .supervisor (capture 30 []) ∧ (asked 0 30 [] atWork).frame.state ≠ .stopped ∧
      (atWork.engine 2).st = .running 5 ∧ (atWork.engine 3).st = switchOf .unwind none (some 6) ∧
      (atWork.engine 7).working = false := by
  simp only [issued_iff]; decide +kernel

/-- One engine at STOP: RUNNING, SWITCHING with a claim and a pending push or without one, and neither. -/
theorem witness_StopSchedule_on_one_engine :
    (served.engine 0).st = .running 1 ∧
      (∀ d ∈ [Dest.displaced, .held], ((switchesOut 0 1 d (some 4) framed).engine 0).st =
        .switching ⟨.suspend, some ⟨1, d⟩, some 4, 25, 25⟩) ∧
      ((engineAt 0 (switchOf .unwind none none) framed).engine 0).st = .switching ⟨.unwind, none, none, 25, 25⟩ ∧
      (framed.engine 0).working = false := by
  decide +kernel

theorem witness_TicksAndSyncEdgesDriveTheFrame :
    (∀ st ∈ [FrameState.armed, .framing, .gap], ({ openFrame with state := st } : FrameUnit).state = st) ∧
      (openFrame.ticksRemaining ≠ 1) ∧
      ((1 : WindowIndex).val = openFrame.windowIndex.val + 1 ∧ (1 : WindowIndex).val < openFrame.activeBank.count.val) ∧
      (({ openFrame with windowIndex := 1 } : FrameUnit).activeBank.count.val ≤ (1 : WindowIndex).val + 1) ∧
      (({ openFrame with gapTicks := 999 } : FrameUnit).gapTicks + 1 = openFrame.gapLimit ∧
        openFrame.gapTicks + 1 ≠ openFrame.gapLimit) ∧
      NextRequest (outstanding .tickFrame framed) (fun r => r = .tickFrame) 0 .tickFrame [] ∧
      (let s : State := { framed with frame := { openFrame with syncMode := .sync } }
       s.pins.resetLow = false ∧ s.pins.fsync = false ∧ s.frame.syncMode = .sync) := by
  simp only [nextRequest_iff]; decide +kernel

theorem witness_TickReachesItsOwners :
    (State.reset.pins.resetLow = false ∧ State.reset.frame.tickPeriod = 0 ∧ framed.frame.tickPeriod ≠ 0) ∧
      TickPart.frame ∈ [TickPart.frame] ∧
      (let s : State := { framed.setTask 4 { user with state := .waiting, wakeTick := some 0 } with delayList := [4] }
       ∃ t ∈ s.delayList, (s.frame.tickCounter - s.wakeOf t).toNat < 2 ^ 31) ∧
      (runs 0 1 { user with budgetLimit := 1 } framed).chargeActs 0 = true ∧ served.chargeActs 0 = false := by
  decide +kernel

theorem witness_ChargeTestsTheThresholds :
    (framed.engine 0).runningTask = none ∧ (served.engine 0).runningTask = some 1 ∧
      (∀ action ∈ [BudgetAction.note, .hold, .stop, .halt],
        let r : TaskRecord := { user with budgetLimit := 1, budgetWarn := 1, budgetAction := action }
        ((runs 0 1 r framed).task 1).budgetAction = action ∧ (runs 0 1 r framed).chargeActs 0 = true) ∧
      NextRequest (outstanding (.charge 0) served) (fun r => r = .charge 0) 0 (.charge 0) [] := by
  simp only [nextRequest_iff]; decide +kernel

theorem witness_BudgetsAreSetAndRenewed :
    (∀ x ∈ ([(0, 65535, .note), (65535, 65535, .hold), (65535, 0, .stop), (1, 1, .halt)] : List (Nat × Nat × BudgetAction)),
      let args := [1, x.1, x.2.1, x.2.2.code]
      Issued (asked 0 35 args boss) 0 35 .manager (capture 35 args) ∧ OnTask (asked 0 35 args boss) 0 (capture 35 args) 1 ∧
        ((capture 35 args).arg 1).toNat ≤ 65535 ∧ ((capture 35 args).arg 2).toNat ≤ 65535 ∧
        (((capture 35 args).arg 1).toNat = 0 ∨ ((capture 35 args).arg 2).toNat ≤ ((capture 35 args).arg 1).toNat) ∧
        ((capture 35 args).arg 3).toNat = x.2.2.code ∧ (boss.task 1).state ≠ .free) ∧
    NextRequest (outstanding .budgetFrameStart framed) (fun r => r = .budgetFrameStart) 0 .budgetFrameStart [] := by
  simp only [issued_iff, onTask_iff, nextRequest_iff]; decide +kernel

/-! ### Witnesses: conditions, resets, invariants -/

theorem witness_conditions :
    (∀ kind ∈ [37, 38],
      (Captures (asked 0 kind [] served) 0 (.ofNat 8 kind) (capture kind []) ∧
        (asked 0 kind [] served).classPasses 0 .supervisor = false) ∧
      (Captures (asked 0 kind [1] boss) 0 (.ofNat 8 kind) (capture kind [1]) ∧
        (asked 0 kind [1] boss).classPasses 0 .supervisor = true)) ∧
      (∀ i : Fin 17, ((capture 37 [2 ^ 17]).arg 0).getLsbD i.val = false) ∧
      (∀ f ∈ [Cond.puFault 0, .portOverrun],
        ({ framed with conds := ⟨0, f.mask⟩ } : State).conds.enable.getLsbD f.bit = true ∧
          framed.conds.enable.getLsbD f.bit = false) := by
  simp only [captures_iff]; decide +kernel

/-- An OFFLINE, a FAULTED and a working PU; a port that is IDLE, one that is BUSY. -/
theorem witness_SystemResetIsAWarmReset :
    let s := asked 0 39 [] (asked 3 23 [] (engineAt 7 .faulted boss))
    Issued s 0 39 .supervisor (capture 39 []) ∧ (s.engine 7).st = .faulted ∧ (s.engine 6).st = .offline ∧
      (s.engine 0).st = .running 1 ∧ (s.port 3).state = .busy (capture 23 []) ∧ (s.port 7).state = .idle := by
  simp only [issued_iff]; decide +kernel

theorem witness_HardResetHoldsUntilTheRise :
    (after .hardReset boss).pins.resetLow = true ∧ boss.pins.resetLow = false := by decide +kernel

theorem witness_OnlyTheirRowsChangeTheirState :
    framing (.create 0) = false ∧ channelSetup (.create 0) = false ∧ halting (.create 0) = false ∧
      onPins (.create 0) = false ∧ ∃ t, exec (.create 0) boss = .next t :=
  ⟨rfl, rfl, rfl, rfl, _, rfl⟩

theorem witness_EveryStepKeepsTheCounts :
    (∃ t, step (framed.setTask 4 user) = .next t) ∧ (framed.setTask 4 user).CountsLaw := by
  refine ⟨⟨_, rfl⟩, ?_⟩
  unfold State.CountsLaw
  decide +kernel

theorem witness_EveryStepKeepsTheChannelLaw :
    (∃ t, step (framed.setChannel 47 { mode := .pulse, masked := false, postRights := 1 }) = .next t) ∧
      (framed.setChannel 47 { mode := .pulse, masked := false, postRights := 1 }).ChannelLaw := by
  refine ⟨⟨_, rfl⟩, ?_⟩
  unfold State.ChannelLaw Channel.Lawful
  decide +kernel

theorem witness_EveryStepKeepsThePlanLaw : (∃ t, step framed = .next t) ∧ framed.PlanLaw := by
  refine ⟨⟨_, rfl⟩, ?_⟩
  constructor <;> (try unfold Bank.Lawful) <;> decide +kernel

end Sys2Proof.Tests
end

section
/-!
PROOFS. Family 09: command ports, privilege and conditions (O9, O51, O52, O53). First what a captured command comes to, one
lemma for each shape of row; then privilege without a running task; then the condition word and ATTN; then the obligations.
-/

namespace Sys2Proof.Machine

/-! ### Refusals -/

section
variable {s : State} {p : Pu} {k : BitVec 8} {c : Captured} {cls : PrivClass}

/-- Only REFUSED_PROTECT is recorded; every other refusal is the bare response (R189). -/
theorem State.refuse_eq_onlyAnswered {st : Status} (h : st ≠ .refusedProtect) : s.refuse p c st = s.onlyAnswered p st := by
  simp only [State.refuse, if_neg h, State.onlyAnswered]

theorem State.refuse_protect : s.refuse p c .refusedProtect = s.protectRefused p c.kind := rfl

/-! ### What a captured command comes to -/

theorem Captures.takeCommand_eq {body : Captured → State} (h : Captures s p k c) : s.takeCommand p k body = body c :=
  State.takeCommand_captured h.awake h.captured h.kind

section
variable {α : Type} {args : Captured → Option α} {refusal : Captured → α → Option Status}
  {perform : Captured → α → State} {x : α}

/-- A captured command that passes its class, its ranges and its own check is performed (R189). -/
theorem Captures.checked_performs (h : Captures s p k c) (hcls : s.classPasses p cls = true) (hargs : args c = some x)
    (hok : refusal c x = none) :
    (s.takeCommand p k fun c => s.checked p c cls (args c) (refusal c) (perform c)) = perform c x := by
  rw [h.takeCommand_eq, hargs, State.checked_passes hcls hok]

/-- A captured command that fails its own check, which is no scope check, is answered and nothing else is done (R189). -/
theorem Captures.checked_onlyAnswers {st : Status} (h : Captures s p k c) (hcls : s.classPasses p cls = true)
    (hargs : args c = some x) (hno : refusal c x = some st) (hst : st ≠ .refusedProtect) :
    (s.takeCommand p k fun c => s.checked p c cls (args c) (refusal c) (perform c)) = s.onlyAnswered p st := by
  rw [h.takeCommand_eq, hargs, State.checked_refused hcls hno, State.refuse_eq_onlyAnswered hst]

end

/-- A row with a class is the checks of that class, in the order of R189, on the command its port has captured. -/
theorem exec_of_classRow {i : Instr} (h : classRow i = some (p, k, cls)) :
    ∃ (α : Type) (args : Captured → Option α) (refusal : Captured → α → Option Status) (perform : Captured → α → State),
      exec i s = .next (s.takeCommand p k fun c => s.checked p c cls (args c) (refusal c) (perform c)) := by
  cases i <;> cases h <;> exact ⟨_, _, _, _, rfl⟩

/-- A self command is the checks of R125 on the command its port has captured. -/
theorem exec_of_selfRow {i : Instr} (h : selfRow i = some (p, k)) :
    ∃ (α : Type) (args : Captured → Option α) (perform : Captured → TaskId → α → State),
      exec i s = .next (s.takeCommand p k fun c => s.selfChecked p c (args c) (perform c)) := by
  cases i <;> cases h <;> exact ⟨_, _, _, rfl⟩

/-- A class check that fails is a recorded violation, whatever the command (R189 (b), R193, R195). -/
theorem exec_protectRefused {i : Instr} (hrow : classRow i = some (p, k, cls)) (hc : Captures s p k c)
    (hcls : s.classPasses p cls = false) : exec i s = .next (s.protectRefused p k) := by
  obtain ⟨α, args, refusal, perform, hexec⟩ := exec_of_classRow (s := s) hrow
  rw [hexec, hc.takeCommand_eq, State.checked_class hcls, State.refuse_protect, hc.kind]

/-- A self command without a running task is NOT_RUNNING, whatever its arguments (R125 (a)). -/
theorem exec_notRunning {i : Instr} (hrow : selfRow i = some (p, k)) (hc : Captures s p k c)
    (hrun : (s.engine p).runningTask = none) : exec i s = .next (s.onlyAnswered p .notRunning) := by
  obtain ⟨α, args, perform, hexec⟩ := exec_of_selfRow (s := s) hrow
  rw [hexec, hc.takeCommand_eq, State.selfChecked_none hrun, State.refuse_eq_onlyAnswered (by decide)]

/-! ### A port without a running task (R192 to R194) -/

theorem State.effectivePrivilege_of_no_task (hst : s.frame.state ≠ .stopped) (hrun : (s.engine p).runningTask = none) :
    s.effectivePrivilege p = none := by
  simp [State.effectivePrivilege, State.issuerTask, hst, hrun]

/-- Outside STOPPED, no class above PU-level passes without a running task (R193, R194). -/
theorem State.classPasses_of_no_task (hst : s.frame.state ≠ .stopped) (hrun : (s.engine p).runningTask = none)
    (hcls : cls ≠ .puLevel) : s.classPasses p cls = false := by
  have hpriv := State.effectivePrivilege_of_no_task hst hrun
  cases cls with
  | puLevel => exact absurd rfl hcls
  | user | manager | supervisor => simp [State.classPasses, hpriv]

theorem State.protectRefused_lastTask : (s.protectRefused p k).violation.lastTask = (s.engine p).runningTask := rfl

/-! ### The PU-level commands on the port of a FAULTED PU (R60, R72, R73, R77, R200) -/

theorem exec_join_faulted (hf : (s.engine p).st = .faulted) (hc : Captures s p 13 c) :
    exec (.join p) s = .next (s.onlyAnswered p .puFaulted) :=
  congrArg Host.Outcome.next (hc.checked_onlyAnswers rfl rfl (by rw [hf]; rfl) (by decide))

theorem exec_handover_faulted (hf : (s.engine p).st = .faulted) (hc : Captures s p 15 c) :
    exec (.handover p) s = .next (s.onlyAnswered p .puFaulted) :=
  congrArg Host.Outcome.next (hc.checked_onlyAnswers rfl rfl (by rw [hf]; rfl) (by decide))

theorem exec_leave_faulted (hf : (s.engine p).st = .faulted) (hc : Captures s p 14 c) :
    exec (.leave p) s = .next (s.onlyAnswered p .refusedState) :=
  congrArg Host.Outcome.next (hc.checked_onlyAnswers rfl rfl (by rw [hf]; rfl) (by decide))

theorem exec_readStatus (hc : Captures s p 36 c) : exec (.readStatus p) s = .next (s.answer p s.statusWords) :=
  congrArg Host.Outcome.next (hc.checked_performs rfl rfl rfl)

theorem exec_readPu {q : Pu} (hc : Captures s p 16 c) (hq : (c.arg 0).toNat = q.val) :
    exec (.readPu p) s = .next (s.answer p (s.puWords q)) :=
  congrArg Host.Outcome.next (hc.checked_performs rfl (asFin_some q hq) rfl)

theorem State.answer_status (res : List Word) : ((s.answer p res).port p).status = some .done := by
  rw [State.answer_eq, State.port_setPort_same]; rfl

/-! ### The condition commands and SYSTEM_RESET, their class check passed (R198, R199, R201) -/

theorem exec_clearConditions (hc : Captures s p 37 c) (hcls : s.classPasses p .supervisor = true) :
    exec (.clearConditions p) s = .next (s.clearConditionsCommand p (flagsArg (c.arg 0))) :=
  congrArg Host.Outcome.next (hc.checked_performs hcls rfl rfl)

theorem exec_setAttnEnable (hc : Captures s p 38 c) (hcls : s.classPasses p .supervisor = true) :
    exec (.setAttnEnable p) s = .next (s.setAttnEnableCommand p (flagsArg (c.arg 0))) :=
  congrArg Host.Outcome.next (hc.checked_performs hcls rfl rfl)

theorem exec_systemReset (hc : Captures s p 39 c) (hcls : s.classPasses p .supervisor = true) :
    exec (.systemReset p) s = .next (s.warmReset.answer p []) :=
  congrArg Host.Outcome.next (hc.checked_performs hcls rfl rfl)

/-! ### What the condition commands do to the state -/

variable (m : BitVec 17)

/-- CLEAR_CONDITIONS touches its port's response and the condition word alone. -/
theorem State.clearConditionsCommand_frame :
    { s.clearConditionsCommand p m with ports := s.ports, conds := s.conds } = s := rfl

theorem State.clearConditionsCommand_conds :
    (s.clearConditionsCommand p m).conds = ⟨s.conds.word &&& ~~~m, s.conds.enable⟩ := rfl

theorem State.clearConditionsCommand_ports :
    (s.clearConditionsCommand p m).ports = (s.answer p [(s.conds.word &&& ~~~m).setWidth 64]).ports := by
  rw [← low_flags]; rfl

/-- A set without a flag leaves the condition word, so the response is all that is new. -/
theorem State.clearConditionsCommand_zero :
    s.clearConditionsCommand p 0 = s.answer p [s.conds.word.setWidth 64] := by
  have hword : s.conds.word &&& ~~~(0 : BitVec 17) = s.conds.word := by
    rw [show ~~~(0 : BitVec 17) = BitVec.allOnes 17 from BitVec.not_zero, BitVec.and_allOnes]
  simp only [State.clearConditionsCommand, hword, low_flags]

/-- SET_ATTN_ENABLE touches its port's response and the enable mask alone. -/
theorem State.setAttnEnableCommand_frame :
    { s.setAttnEnableCommand p m with ports := s.ports, conds := s.conds } = s := rfl

theorem State.setAttnEnableCommand_conds : (s.setAttnEnableCommand p m).conds = ⟨s.conds.word, m⟩ := rfl

theorem State.setAttnEnableCommand_ports :
    (s.setAttnEnableCommand p m).ports = (s.answer p [s.conds.word.setWidth 64, m.setWidth 64]).ports := by
  rw [← low_flags, ← low_flags]; rfl

/-- Clearing a set of flags, flag by flag. -/
theorem clearedFlags_bit (w : BitVec 17) (x : Word) (i : Fin 17) :
    (w &&& ~~~flagsArg x).getLsbD i.val = (w.getLsbD i.val && !x.getLsbD i.val) := by
  rw [BitVec.getLsbD_and, BitVec.getLsbD_not, flagsArg_bit x i.val i.isLt, decide_eq_true i.isLt, Bool.true_and]

theorem flagsArg_eq_zero {x : Word} (h : ∀ i : Fin 17, x.getLsbD i.val = false) : flagsArg x = 0 := by
  apply BitVec.eq_of_getLsbD_eq
  intro i hi
  rw [flagsArg_bit x i hi, h ⟨i, hi⟩]
  exact BitVec.getLsbD_zero.symm

end

/-! ### ATTN (R197) -/

theorem State.latch_conds_enable (s : State) (flag : Cond) : (s.latch flag).conds.enable = s.conds.enable := rfl

/-- A latch sets its flag and keeps the others (R196). -/
theorem State.latch_word_bit (s : State) (flag : Cond) (n : Nat) :
    (s.latch flag).conds.word.getLsbD n = (s.conds.word.getLsbD n || decide (n = flag.bit)) := by
  rw [← Cond.mask_bit]
  exact BitVec.getLsbD_or

theorem State.attn_latch_enabled {s : State} {flag : Cond} (h : s.conds.enable.getLsbD flag.bit = true) :
    (s.latch flag).attn = true := by
  rw [State.attn_iff]
  refine ⟨⟨flag.bit, flag.bit_lt⟩, ?_, h⟩
  simp [State.latch_word_bit]

/-- The latched flag is the one bit that may be new, and it is not enabled. -/
theorem State.attn_latch_not_enabled {s : State} {flag : Cond} (h : s.conds.enable.getLsbD flag.bit = false) :
    (s.latch flag).attn = s.attn := by
  rw [Bool.eq_iff_iff, State.attn_iff, State.attn_iff]
  refine exists_congr fun i => and_congr_left fun hen => ?_
  have hi : i.val ≠ flag.bit := by
    rintro hi
    rw [State.latch_conds_enable, hi, h] at hen
    cases hen
  rw [State.latch_word_bit, decide_eq_false hi, Bool.or_false]

/-- With no flag set ATTN is deasserted, whatever is enabled. -/
theorem State.attn_of_word_zero {s : State} (h : s.conds.word = 0) : s.attn = false := by
  simp [State.attn, h]

/-! ### The obligations of the family -/

/-- Settles O9: without a running task no class above PU-level passes, so every row with such a class is a recorded
violation; the PU-level rows go on to their own checks, which read the FAULTED engine. -/
theorem portWithoutRunningTaskIsJudgedByClass : Obligations.PortWithoutRunningTaskIsJudgedByClass := by
  intro p c s hst hrun
  refine ⟨rfl, ?selfCommand, ?classRefused, ?faulted⟩
  case selfCommand => exact fun i k hrow hc => exec_notRunning hrow hc hrun
  case classRefused =>
    intro i k cls hrow hcls hc
    have hfails := State.classPasses_of_no_task hst hrun hcls
    exact ⟨_, exec_protectRefused hrow hc hfails, rfl, State.protectRefused_lastTask.trans hrun⟩
  case faulted =>
    intro hf
    exact ⟨exec_join_faulted hf, exec_handover_faulted hf, exec_leave_faulted hf, exec_readStatus,
      fun q hc hq => ⟨_, exec_readPu hc hq, State.answer_status _⟩⟩

/-- Settles O51: the next state is `clearConditionsCommand`, read field by field and flag by flag. -/
theorem clearConditionsClearsTheNamedFlags : Obligations.ClearConditionsClearsTheNamedFlags := by
  intro p c s hc
  refine ⟨exec_protectRefused rfl hc, fun hcls => ⟨_, exec_clearConditions hc hcls, ?_⟩⟩
  refine ⟨State.clearConditionsCommand_frame _, rfl, clearedFlags_bit _ _, State.clearConditionsCommand_ports _,
    State.attn_iff _, fun hnone => ?_⟩
  rw [flagsArg_eq_zero hnone, State.clearConditionsCommand_zero]

/-- Settles O52: the next state is `setAttnEnableCommand`, whose mask is the low seventeen bits of the argument. -/
theorem setAttnEnableReplacesTheMask : Obligations.SetAttnEnableReplacesTheMask := by
  intro p c s hc
  refine ⟨exec_protectRefused rfl hc, fun hcls => ⟨_, exec_setAttnEnable hc hcls, ?_⟩⟩
  refine ⟨State.setAttnEnableCommand_frame _, rfl, fun i => flagsArg_bit _ _ i.isLt, State.setAttnEnableCommand_ports _,
    fun n hn => ?_, State.attn_iff _⟩
  simp [State.setAttnEnableCommand_conds, BitVec.getLsbD_of_ge _ n hn]

/-- Settles O53: ATTN is read off the word and the mask in every state; both resets leave a word of 0. -/
theorem attnFollowsTheEnabledFlags : Obligations.AttnFollowsTheEnabledFlags := by
  intro s
  refine ⟨s.attn_iff, fun flag => ⟨State.attn_latch_enabled, State.attn_latch_not_enabled⟩, fun _ t _ => t.attn_iff,
    State.attn_of_word_zero rfl, ⟨_, rfl, State.attn_of_word_zero rfl⟩, fun p c hissued => ?_⟩
  exact ⟨_, exec_systemReset hissued.toCaptures hissued.allowed, State.attn_of_word_zero rfl⟩

end Sys2Proof.Machine
end

section
/-!
PROOFS. What a row may change, and the three laws (O56 to O60, O3). `Keeps i s t` says once what row i leaves alone on the
way from s to t, and that the laws go over from s to t; a case per row shows it, and the obligations are read off it.
-/

namespace Sys2Proof.Machine

/-- Row i took s to t: what it is not named for is as it was, and t obeys the laws that s obeyed. -/
structure Keeps (i : Instr) (s t : State) : Prop where
  pending : t.pending = s.pending
  frame : framing i = false → t.frame = s.frame
  config : channelSetup i = false → ∀ ch, (t.channel ch).config = (s.channel ch).config
  halted : halting i = false → ∀ k, (t.part k).halted = (s.part k).halted
  enable : (∀ p, i ≠ .setAttnEnable p) → i ≠ .hardReset → t.conds.enable = s.conds.enable
  pins : onPins i = false → t.pins = s.pins
  counts : s.CountsLaw → t.CountsLaw
  channels : s.ChannelLaw → t.ChannelLaw
  plan : s.PlanLaw → t.PlanLaw

theorem Settles.plan {s t : State} (h : Settles s t) (hp : s.PlanLaw) : t.PlanLaw := by
  rw [State.PlanLaw, h.frame]; exact hp

theorem Settles.keeps {s t : State} (i : Instr) (h : Settles s t) : Keeps i s t where
  pending := h.pending
  frame _ := h.frame
  config _ := h.config
  halted _ := h.halted
  enable _ _ := h.enable
  pins _ := h.pins
  counts := h.counts
  channels := h.channels
  plan := h.plan

namespace Keeps

variable {i : Instr} {a s t : State}

theorem refl (s : State) : Keeps i s s := (Settles.refl s).keeps i

theorem trans (h : Keeps i a s) (g : Keeps i s t) : Keeps i a t where
  pending := g.pending.trans h.pending
  frame n := (g.frame n).trans (h.frame n)
  config n ch := (g.config n ch).trans (h.config n ch)
  halted n k := (g.halted n k).trans (h.halted n k)
  enable n n' := (g.enable n n').trans (h.enable n n')
  pins n := (g.pins n).trans (h.pins n)
  counts x := g.counts (h.counts x)
  channels x := g.channels (h.channels x)
  plan x := g.plan (h.plan x)

theorem settles (h : Keeps i a s) (g : Settles s t) : Keeps i a t := h.trans (g.keeps i)

theorem moves (h : Keeps i a s) (g : Moves s t) : Keeps i a t := h.settles g.settles

theorem answer (p : Pu) (res : List Word) (h : Keeps i a s) : Keeps i a (s.answer p res) :=
  h.settles ((Settles.refl s).answer p res)

theorem foldl {β : Type} (f : State → β → State) (step : ∀ s b, Keeps i s (f s b)) (l : List β) :
    ∀ {s : State}, Keeps i a s → Keeps i a (l.foldl f s) := by
  induction l with
  | nil => exact fun h => h
  | cons b l ih => exact fun h => ih (h.trans (step _ b))

/-! ### The updates that only some rows may make -/

/-- A violation is recorded in no part of the state that a row is named for (R195). -/
theorem refuse (p : Pu) (c : Captured) (st : Status) : Keeps i s (s.refuse p c st) := by
  have violated : Keeps i s (s.violate p c.kind) :=
    ⟨rfl, fun _ => rfl, fun _ _ => rfl, fun _ _ => rfl, fun _ _ => rfl, fun _ => rfl, id, id, id⟩
  unfold State.refuse
  split
  · exact violated.settles (.respond p st .none false [] (.refl _))
  · exact (refl s).settles (.respond p st .none false [] (.refl _))

theorem setFrame (f : FrameUnit) (hi : framing i = true) (hf : s.frame.Lawful → f.Lawful) :
    Keeps i s { s with frame := f } :=
  ⟨rfl, fun n => (nomatch hi.symm.trans n), fun _ _ => rfl, fun _ _ => rfl, fun _ _ => rfl, fun _ => rfl, id, id, hf⟩

theorem setPins (x : Pins) (hi : onPins i = true) : Keeps i s { s with pins := x } :=
  ⟨rfl, fun _ => rfl, fun _ _ => rfl, fun _ _ => rfl, fun _ _ => rfl, fun n => (nomatch hi.symm.trans n), id, id, id⟩

/-- A halt set or cleared leaves the counts of its partition. -/
theorem setHalted (k : Partition) (o : Option HaltReason) (hi : halting i = true) :
    Keeps i s (s.setPart k { s.part k with halted := o }) := by
  refine ⟨rfl, fun _ => rfl, fun _ _ => rfl, fun n => (nomatch hi.symm.trans n), fun _ _ => rfl, fun _ => rfl, ?_, id, id⟩
  intro hc j
  rw [State.part_setPart]
  split
  · next hkj => subst hkj; exact hc k
  · exact hc j

theorem setUp (c : ChannelId) (r : Channel) (hi : channelSetup i = true) (hr : (s.channel c).Lawful c → r.Lawful c) :
    Keeps i s (s.setChannel c r) :=
  ⟨rfl, fun _ => rfl, fun n => (nomatch hi.symm.trans n), fun _ _ => rfl, fun _ _ => rfl, fun _ => rfl, id,
    fun hl => State.channelLaw_setChannel s c r hl (hr (hl c)), id⟩

/-! ### The shapes of a row -/

theorem takeCommand {p : Pu} {kind : BitVec 8} {body : Captured → State} (h : ∀ c, Keeps i s (body c)) :
    Keeps i s (s.takeCommand p kind body) := by
  unfold State.takeCommand
  split
  · exact refl s
  · split
    · split
      · exact h _
      · exact refl s
    · exact refl s

theorem checked {α : Type} {p : Pu} {c : Captured} {cls : PrivClass} {args : Option α} {refusal : α → Option Status}
    {perform : α → State} (h : ∀ x, args = some x → refusal x = none → Keeps i s (perform x)) :
    Keeps i s (s.checked p c cls args refusal perform) := by
  unfold State.checked
  split
  · split
    · exact refuse ..
    · split
      · exact refuse ..
      · next hr => exact h _ rfl hr
  · exact refuse ..

/-- A command whose effect settles, once its checks are passed. -/
theorem checkedSettles {α : Type} {p : Pu} {kind : BitVec 8} {cls : PrivClass} {args : Captured → Option α}
    {refusal : Captured → α → Option Status} {perform : Captured → α → State} (h : ∀ c x, Settles s (perform c x)) :
    Keeps i s (s.takeCommand p kind fun c => s.checked p c cls (args c) (refusal c) (perform c)) :=
  takeCommand fun c => checked fun x _ _ => (h c x).keeps i

theorem selfCommand {α : Type} {p : Pu} {kind : BitVec 8} {args : Captured → Option α}
    {perform : Captured → TaskId → α → State} (h : ∀ c t x, Settles s (perform c t x)) :
    Keeps i s (s.takeCommand p kind fun c => s.selfChecked p c (args c) (perform c)) := by
  refine takeCommand fun c => ?_
  unfold State.selfChecked
  split
  · exact refuse ..
  · split
    · exact refuse ..
    · exact (h _ _ _).keeps i

theorem awake {f : State → State} (h : Keeps i s (f s)) : Keeps i s (s.awake f) := by
  unfold State.awake
  split
  · exact refl s
  · exact h

theorem takeRequest {want : Request → Bool} {nth : Nat} {act : Request → State → State}
    (h : ∀ r s, Keeps i s (act r s)) : Keeps i s (s.takeRequest want nth act) := by
  unfold State.takeRequest
  split
  · exact ((Moves.refl s).setRequests _).settles.keeps i |>.trans (h _ _)
  · exact refl s

end Keeps

/-! ### Halts (R40, R43) -/

theorem Keeps.haltPartition {i : Instr} (s : State) (k : Partition) (why : HaltReason) (hi : halting i = true) :
    Keeps i s (s.haltPartition k why) := by
  unfold State.haltPartition
  split
  · exact .refl s
  · exact ((Keeps.setHalted k _ hi).moves ((Moves.refl _).latch _)).moves
      (.eachEngine _ _ (fun p s => (Moves.refl s).haltEngine k p) (.refl _))

theorem Keeps.releaseCommand {i : Instr} (s : State) (p : Pu) (k : Partition) (hi : halting i = true) :
    Keeps i s (s.releaseCommand p k) :=
  ((Keeps.setHalted k none hi).moves ((Moves.refl _).request _)).answer p _

/-! ### Channel set-up (R103, R117 to R120) -/

theorem Channel.lawful_bound (a : BindArgs) (r : Channel) : (r.bound a).Lawful a.channel := by
  simp +contextual [Channel.Lawful, Channel.bound]

theorem Channel.lawful_masked {c : ChannelId} {r : Channel} (h : r.Lawful c) :
    Channel.Lawful c { r with masked := true } :=
  ⟨h.1, h.2.1, fun hm => by cases hm⟩

/-- UNMASK leaves no unit on a PULSE channel (R118). -/
theorem Channel.lawful_unmasked {c : ChannelId} {r : Channel} (h : r.Lawful c) : r.unmasked.Lawful c := by
  obtain ⟨hedge, hpost, hpulse⟩ := h
  unfold Channel.unmasked
  split
  · split
    · next hmode => exact ⟨hedge, hpost, fun _ hp => absurd (hmode.symm.trans hp) (by decide)⟩
    · exact ⟨hedge, hpost, fun _ _ => rfl⟩
  · exact ⟨hedge, hpost, hpulse⟩

theorem Keeps.maskCommand {i : Instr} (s : State) (p : Pu) (c : ChannelId) (hi : channelSetup i = true) :
    Keeps i s (s.maskCommand p c) :=
  (Keeps.setUp c _ hi Channel.lawful_masked).answer p _

theorem Keeps.unmaskCommand {i : Instr} (s : State) (p : Pu) (c : ChannelId) (hi : channelSetup i = true) :
    Keeps i s (s.unmaskCommand p c) :=
  ((Keeps.setUp c _ hi Channel.lawful_unmasked).moves ((Moves.refl _).wakeAll _ _)).answer p _

theorem Keeps.bindCommand {i : Instr} (s : State) (p : Pu) (a : BindArgs) (hi : channelSetup i = true) :
    Keeps i s (s.bindCommand p a) :=
  ((Keeps.setUp a.channel _ hi fun _ => Channel.lawful_bound a _).moves ((Moves.refl _).wakeAll _ _)).answer p _

/-! ### The plan commands (R148, R151 to R153) -/

/-- CONFIGURE is taken in STOPPED, where the tick period and the sync mode bind nothing. -/
theorem FrameUnit.lawful_configured {f : FrameUnit} {c : Captured} {a : ConfigArgs} (ha : configArgs c = some a)
    (hs : f.state = .stopped) (h : f.Lawful) : (a.apply f).Lawful :=
  { bankA := h.bankA, bankB := h.bankB, activeHasWindow := h.activeHasWindow, armedHasWindow := h.armedHasWindow
    windowInFrame := h.windowInFrame, indexOutside := h.indexOutside, ticksOutside := h.ticksOutside
    ticksWithin := h.ticksWithin, gapOutside := h.gapOutside
    syncStates := fun hst => by
      rw [show (a.apply f).state = .stopped from hs] at hst
      rcases hst with hst | hst <;> cases hst
    tickRuns := fun hst => absurd hs hst
    handoverLimit := (configArgs_limits ha).1, gapLimit := (configArgs_limits ha).2 }

theorem FrameUnit.standbyRefusal_none {f : FrameUnit} (h : f.standbyRefusal = none) : f.countdown = 0 := by
  simpa [FrameUnit.standbyRefusal] using h

/-- A closed plan switch leaves the standby bank free to be replaced by any bank without empty windows. -/
theorem FrameUnit.lawful_setStandby {f : FrameUnit} {x : Bank} (hx : x.Lawful) (hc : f.countdown = 0) (h : f.Lawful) :
    (f.setStandby x).Lawful := by
  obtain ⟨hA, hB, hactive, -, hwindow, hindex, hout, hin, hgap, hsync, htick, hlimit, hgapLimit⟩ := h
  unfold FrameUnit.setStandby
  unfold FrameUnit.activeBank at hactive hwindow
  cases hact : f.active with
  | a =>
    rw [hact] at hactive hwindow
    exact ⟨hA, hx, by rw [FrameUnit.activeBank, show (f.setBank BankId.a.other x).active = .a from hact]; exact hactive,
      fun hn => absurd hc hn,
      by rw [FrameUnit.activeBank, show (f.setBank BankId.a.other x).active = .a from hact]; exact hwindow,
      hindex, hout, hin, hgap, hsync, htick, hlimit, hgapLimit⟩
  | b =>
    rw [hact] at hactive hwindow
    exact ⟨hx, hB, by rw [FrameUnit.activeBank, show (f.setBank BankId.b.other x).active = .b from hact]; exact hactive,
      fun hn => absurd hc hn,
      by rw [FrameUnit.activeBank, show (f.setBank BankId.b.other x).active = .b from hact]; exact hwindow,
      hindex, hout, hin, hgap, hsync, htick, hlimit, hgapLimit⟩

theorem Bank.lawful_write {x : Bank} {i : WindowIndex} {w : Window} (hw : w.length ≠ 0) (h : x.Lawful) :
    (x.write i w).Lawful := by
  intro j
  have hj : (x.write i w).windows[j] = if i = j then w else x.windows[j] := get_put ..
  rw [hj]
  split
  · exact hw
  · exact h j

theorem FrameUnit.lawful_armed {f : FrameUnit} {n : BitVec 8} (hn : f.armRefusal n = none) (h : f.Lawful) :
    FrameUnit.Lawful { f with countdown := n } := by
  have hwindow : n ≠ 0 → 0 < f.standbyBank.count.val := by
    unfold FrameUnit.armRefusal at hn
    split at hn
    · cases hn
    · next hno => exact fun hn0 => Nat.pos_of_ne_zero fun hc => hno ⟨hn0, hc⟩
  exact { h with armedHasWindow := hwindow }

/-! ### Ticks, frame starts and the schedule (R149, R156 to R160, R162) -/

theorem Keeps.frameStart {i : Instr} (s : State) (hi : framing i = true) (hf : s.frame.Lawful → s.frame.startFrame.Lawful) :
    Keeps i s s.frameStart := by
  unfold State.frameStart
  exact (Keeps.setFrame _ hi hf).moves (((Moves.refl _).request _).request _)

theorem FrameUnit.nextWindow_some {f : FrameUnit} {i : WindowIndex} (h : f.nextWindow = some i) :
    i.val = f.windowIndex.val + 1 ∧ i.val < f.activeBank.count.val := by
  unfold FrameUnit.nextWindow at h
  split at h
  · next hlt =>
    have hi := (asFin_eq_some i).mp h
    exact ⟨hi.symm, hi ▸ hlt⟩
  · cases h

theorem FrameUnit.lawful_windowStart {f : FrameUnit} {i : WindowIndex} {n : BitVec 16} (hs : f.state = .framing)
    (hi : i.val < f.activeBank.count.val) (h : f.Lawful) :
    FrameUnit.Lawful { f with windowIndex := i, ticksRemaining :=
      (FrameUnit.activeBank { f with ticksRemaining := n }).windows[i].length } :=
  { h with
    windowInFrame := fun _ => hi
    indexOutside := fun hd => by simp [FrameUnit.dispatching, hs] at hd
    ticksOutside := fun hn => absurd hs hn
    ticksWithin := fun _ => FrameUnit.bank_lawful h f.active i }

/-- FRAMING ends in GAP under SYNC mode alone (R158 (c)). -/
theorem FrameUnit.lawful_gap {f : FrameUnit} (hs : f.state = .framing) (hm : f.syncMode = .sync) (h : f.Lawful) :
    FrameUnit.Lawful { f with ticksRemaining := 0, state := .gap, gapTicks := 0 } :=
  { h with
    activeHasWindow := fun _ => h.activeHasWindow (by rw [hs]; decide)
    windowInFrame := fun _ => h.windowInFrame (by simp [FrameUnit.dispatching, hs])
    indexOutside := fun hd => by simp [FrameUnit.dispatching] at hd
    ticksOutside := fun _ => rfl
    ticksWithin := fun he => by cases he
    gapOutside := fun hn => absurd rfl hn
    syncStates := fun _ => hm
    tickRuns := fun _ => h.tickRuns (by rw [hs]; decide) }

/-- What the window's end leaves does not look at the ticks that remained (R158). -/
theorem FrameUnit.startFrame_ticksRemaining (f : FrameUnit) (n : BitVec 16) :
    FrameUnit.startFrame { f with ticksRemaining := n } = f.startFrame := by
  simp only [FrameUnit.startFrame]
  congr 1

theorem Keeps.windowEnds {i : Instr} (s : State) (hi : framing i = true) (hs : s.frame.state = .framing) :
    Keeps i s (State.windowEnds { s with frame := { s.frame with ticksRemaining := 0 } }) := by
  unfold State.windowEnds
  split
  · next j hj =>
    obtain ⟨-, hlt⟩ := FrameUnit.nextWindow_some hj
    exact (Keeps.setFrame (s := s) _ hi (FrameUnit.lawful_windowStart hs hlt)).moves ((Moves.refl _).request _)
  · split
    · have hframe : Keeps i s { s with frame := s.frame.startFrame } :=
        Keeps.setFrame _ hi fun h => FrameUnit.startFrame_lawful_running h (by rw [hs]; decide)
      unfold State.frameStart
      simp only [FrameUnit.startFrame_ticksRemaining]
      exact hframe.moves (((Moves.refl _).request _).request _)
    · next hm => exact Keeps.setFrame (s := s) _ hi (FrameUnit.lawful_gap hs hm)

theorem Keeps.takeFrameTick {i : Instr} (s : State) (hi : framing i = true) : Keeps i s s.takeFrameTick := by
  cases hs : s.frame.state with
  | stopped | armed => unfold State.takeFrameTick; rw [hs]; exact .refl s
  | framing =>
    rw [State.takeFrameTick_framing s hs]
    dsimp only
    split
    · next h0 => rw [h0]; exact .windowEnds s hi hs
    · next h0 => exact .setFrame _ hi fun h => { h with ticksOutside := fun hn => absurd hs hn, ticksWithin := fun _ => h0 }
  | gap =>
    have ticked : Keeps i s { s with frame := { s.frame with gapTicks := s.frame.gapTicks + 1 } } :=
      .setFrame _ hi fun h => { h with gapOutside := fun hn => absurd hs hn }
    rw [State.takeFrameTick_gap s hs]
    dsimp only
    split
    · refine (ticked.moves ((Moves.refl _).latch _)).trans (.frameStart _ hi fun h => ?_)
      exact FrameUnit.startFrame_lawful_running h (by simp [hs])
    · exact ticked

theorem Keeps.takeDelayTick {i : Instr} (s : State) (counter : BitVec 32) : Keeps i s (s.takeDelayTick counter) :=
  ((Moves.refl s).wakeAll _ _).settles.keeps i

theorem Keeps.charge {i : Instr} (s : State) (p : Pu) : Keeps i s (s.charge p) := ((Moves.refl s).charge p).settles.keeps i

theorem Keeps.deliverTick {i : Instr} (s : State) (held : List TickPart) (part : TickPart) (hi : framing i = true) :
    Keeps i s (s.deliverTick held part) := by
  unfold State.deliverTick
  split
  · exact ((Moves.refl s).request _).settles.keeps i
  · cases part with
    | frame => exact .takeFrameTick s hi
    | delay => exact .takeDelayTick s _
    | charge p => exact .charge s p

theorem Keeps.takeFsync {i : Instr} (s : State) (hi : framing i = true) : Keeps i s s.takeFsync := by
  unfold State.takeFsync
  split
  · split
    · exact .refl s
    · next hs => exact .frameStart s hi fun h => FrameUnit.startFrame_lawful_running h (by rw [hs]; decide)
    · next hs => exact .frameStart s hi fun h => FrameUnit.startFrame_lawful_running h (by rw [hs]; decide)
    · next hs =>
      have early : Keeps i s { s with frame := { s.frame with earlySync := satInc s.frame.earlySync } } :=
        .setFrame _ hi fun h => { h with }
      refine (early.moves ((Moves.refl _).latch _)).trans (.frameStart _ hi fun h => ?_)
      exact FrameUnit.startFrame_lawful_running h (by simp [hs])
  · exact .refl s

theorem FrameUnit.startRefusal_none {f : FrameUnit} (h : f.startRefusal = none) :
    f.state = .stopped ∧ f.tickPeriod ≠ 0 ∧ f.planReady = true := by
  simpa [FrameUnit.startRefusal] using h

theorem FrameUnit.planReady_iff {f : FrameUnit} :
    f.planReady = true ↔
      0 < f.activeBank.count.val ∨ (f.syncMode = .free ∧ f.countdown = 1 ∧ 0 < f.standbyBank.count.val) := by
  simp only [FrameUnit.planReady, Bool.or_eq_true, Bool.and_eq_true, decide_eq_true_eq, and_assoc]

/-- ARMED asks for a plan that is ready; in SYNC mode that is a window in the active bank (R156 (d)). -/
theorem FrameUnit.lawful_startArmed {f : FrameUnit} (hr : f.startRefusal = none) (hm : f.syncMode = .sync) (h : f.Lawful) :
    FrameUnit.Lawful { f with state := .armed } := by
  obtain ⟨hs, htick, hplan⟩ := FrameUnit.startRefusal_none hr
  have hidle : f.dispatching = false := by simp [FrameUnit.dispatching, hs]
  exact
    { h with
      activeHasWindow := fun _ => show 0 < f.activeBank.count.val by simpa [FrameUnit.planReady, hm] using hplan
      windowInFrame := fun hd => by simp [FrameUnit.dispatching] at hd
      indexOutside := fun _ => h.indexOutside hidle
      ticksOutside := fun _ => h.ticksOutside (by rw [hs]; decide)
      ticksWithin := fun he => by cases he
      gapOutside := fun _ => h.gapOutside (by rw [hs]; decide)
      syncStates := fun _ => hm
      tickRuns := fun _ => htick }

theorem Keeps.startScheduleCommand {i : Instr} (s : State) (p : Pu) (hi : framing i = true) (hr : s.frame.startRefusal = none) :
    Keeps i s (s.startScheduleCommand p) := by
  obtain ⟨-, htick, hplan⟩ := FrameUnit.startRefusal_none hr
  refine .answer p _ ?_
  unfold State.startSchedule
  split
  · refine .frameStart s hi fun h => FrameUnit.startFrame_lawful h (fun hc => ?_) htick
    exact (FrameUnit.planReady_iff.mp hplan).resolve_right fun hexchange => hc hexchange.2.1
  · next hm => exact .setFrame _ hi (FrameUnit.lawful_startArmed hr hm)

theorem FrameUnit.stop_lawful {f : FrameUnit} (h : f.Lawful) : f.stop.Lawful :=
  { h with
    activeHasWindow := fun hn => absurd rfl hn
    windowInFrame := fun hd => by cases hd
    indexOutside := fun _ => rfl
    ticksOutside := fun _ => rfl
    ticksWithin := fun he => by cases he
    gapOutside := fun _ => rfl
    syncStates := fun hst => by rcases hst with hst | hst <;> cases hst
    tickRuns := fun hn => absurd rfl hn }

theorem Keeps.stopScheduleCommand {i : Instr} (s : State) (p : Pu) (hi : framing i = true) :
    Keeps i s (s.stopScheduleCommand p) :=
  ((Keeps.setFrame _ hi FrameUnit.stop_lawful).moves
    (.eachEngine _ _ (fun p s => (Moves.refl s).stopEngine p) (.refl _))).answer p _

/-! ### The resets (R201, R206) -/

/-- With every record FREE and every partition record fresh, all counts are 0. -/
theorem State.countsLaw_of_free {s : State} (ht : ∀ t, s.task t = .freeRecord) (hk : ∀ k, s.part k = {}) : s.CountsLaw := by
  intro k
  rw [hk k]
  constructor
  · symm; simp [List.countP_eq_zero, State.isMember, ht, TaskRecord.freeRecord]
  · symm; simp [List.countP_eq_zero, State.isReadyIn, ht, TaskRecord.freeRecord]

theorem State.reset_task (t : TaskId) : State.reset.task t = .freeRecord := Vector.getElem_replicate ..

theorem State.reset_part (k : Partition) : State.reset.part k = {} := Vector.getElem_replicate ..

theorem State.reset_channel (ch : ChannelId) : State.reset.channel ch = {} := Vector.getElem_replicate ..

theorem State.reset_countsLaw : State.reset.CountsLaw := State.countsLaw_of_free State.reset_task State.reset_part

theorem State.reset_channelLaw : State.reset.ChannelLaw := by
  intro ch
  rw [State.reset_channel]
  exact ⟨fun _ => rfl, fun _ => rfl, fun hm => by cases hm⟩

theorem State.reset_planLaw : State.reset.PlanLaw :=
  { bankA := Bank.default_lawful, bankB := Bank.default_lawful
    activeHasWindow := fun hn => absurd rfl hn
    armedHasWindow := fun hn => absurd rfl hn
    windowInFrame := fun hd => by cases hd
    indexOutside := fun _ => rfl
    ticksOutside := fun _ => rfl
    ticksWithin := fun he => by cases he
    gapOutside := fun _ => rfl
    syncStates := fun hst => by rcases hst with hst | hst <;> cases hst
    tickRuns := fun hn => absurd rfl hn
    handoverLimit := by decide
    gapLimit := by decide }

theorem State.warmReset_channel (s : State) (ch : ChannelId) : s.warmReset.channel ch = (s.channel ch).warm := by
  simp [State.channel, State.warmReset]

theorem Channel.lawful_warm {c : ChannelId} {r : Channel} (h : r.Lawful c) : r.warm.Lawful c :=
  ⟨h.1, h.2.1, fun _ _ => rfl⟩

theorem Keeps.systemReset (p q : Pu) (s : State) : Keeps (.systemReset p) s (s.warmReset.answer q []) := by
  refine .answer q [] ⟨rfl, fun n => (by cases n), ?config, fun n => (by cases n), fun _ _ => rfl, fun _ => rfl,
    fun _ => ?counts,
    ?channels, FrameUnit.warm_lawful⟩
  case config => intro _ ch; rw [State.warmReset_channel]; rfl
  case counts => exact State.countsLaw_of_free State.reset_task State.reset_part
  case channels => intro h ch; rw [State.warmReset_channel]; exact Channel.lawful_warm (h ch)

theorem Keeps.hardReset (s : State) :
    Keeps .hardReset s { State.reset with
      pins := { s.pins with resetLow := true }, pending := s.pending, freeIndex := s.freeIndex } :=
  ⟨rfl, fun n => (by cases n), fun n => (by cases n), fun n => (by cases n), fun _ n => absurd rfl n, fun n => (by cases n),
    fun _ => State.reset_countsLaw, fun _ => State.reset_channelLaw, fun _ => State.reset_planLaw⟩

/-! ### Every row -/

theorem Settles.createCommand {s : State} (p : Pu) (a : CreateArgs) : Settles s (s.createCommand p a) := by
  unfold State.createCommand
  split
  · exact .answer p _ ((Moves.refl s).setTask _ _).settles
  · exact .refl s

theorem Settles.handoverCommand {s : State} (p : Pu) (w : Option Word) : Settles s (s.handoverCommand p w) := by
  unfold State.handoverCommand
  split
  · exact .complete p _ w (.refl s)
  · exact .refl s

theorem Settles.suspendCommand {s : State} (p : Pu) (t : TaskId) : Settles s (s.suspendCommand p t) := by
  have suspended := ((Moves.refl s).suspendTask t).settles
  unfold State.suspendCommand
  dsimp only
  split
  · exact suspended.respond p _ _ _ _
  · exact suspended.answer p _

theorem Settles.retireCommand {s : State} (p : Pu) (t : TaskId) : Settles s (s.retireCommand p t) := by
  have retired := ((Moves.refl s).retireTask t).settles.settlePurge (s.task t).partition
  unfold State.retireCommand
  dsimp only
  split
  · exact retired.respond p _ _ _ _
  · exact retired.answer p _

theorem Settles.setPriorityCommand {s : State} (p : Pu) (a : TaskId × Priority) : Settles s (s.setPriorityCommand p a) := by
  refine .answer p _ ?_
  split
  · exact .refl s
  · exact ((Moves.refl s).changePriority _ _).settles

theorem Settles.purgeCommand {s : State} (p : Pu) (k : Partition) : Settles s (s.purgeCommand p k) :=
  .settlePurge k (.moves (.setPurge k _ (.refl s)) (.foldl _ (fun s t => (Moves.refl s).retireTask t) _ (.refl _)))

theorem Settles.postCommand {s : State} (p : Pu) (a : ChannelId × BitVec 8) : Settles s (s.postCommand p a) :=
  .answer p _ (.arrive _ _ (.refl s))

theorem Settles.setConds {s : State} (w : BitVec 17) : Settles s { s with conds := { s.conds with word := w } } :=
  ⟨rfl, rfl, rfl, rfl, rfl, fun _ => rfl, fun _ => rfl, id, id⟩

theorem Settles.writeGo {s : State} (p : Pu) : Settles s (s.writeGo p) := by
  unfold State.writeGo
  split
  · exact (Settles.setPort p _ (.refl s)).moves ((Moves.refl _).latch _)
  · exact .setPort p _ (.refl s)

theorem Keeps.setAttnEnable (p q : Pu) (m : BitVec 17) (s : State) : Keeps (.setAttnEnable p) s (s.setAttnEnableCommand q m) :=
  .answer q _ ⟨rfl, fun _ => rfl, fun _ _ => rfl, fun _ _ => rfl, fun n => absurd rfl (n p), fun _ => rfl, id, id, id⟩

theorem Keeps.eventLineEdge (n : Line) (level : Bool) (s : State) :
    ∃ t, exec (.eventLineEdge n level) s = .next t ∧ Keeps (.eventLineEdge n level) s t := by
  have noted : Keeps (.eventLineEdge n level) s { s with pins := { s.pins with events := withLevel n level s.pins.events } } :=
    .setPins _ rfl
  refine ⟨_, rfl, ?_⟩
  split
  · exact noted.settles (.arrive _ _ (.refl _))
  · exact noted

theorem Keeps.fsyncEdge (level : Bool) (s : State) :
    ∃ t, exec (.fsyncEdge level) s = .next t ∧ Keeps (.fsyncEdge level) s t := by
  have noted : Keeps (.fsyncEdge level) s { s with pins := { s.pins with fsync := level } } := .setPins _ rfl
  refine ⟨_, rfl, ?_⟩
  split
  · exact noted.trans (.takeFsync _ rfl)
  · exact noted

theorem Keeps.resetRise (events : BitVec 16) (fsync : Bool) (s : State) :
    Keeps (.resetRise events fsync) s (if s.pins.resetLow then { s with pins := ⟨false, events, fsync⟩ } else s) := by
  split
  · exact .setPins _ rfl
  · exact .refl s

theorem Keeps.tick (held : List TickPart) (s : State) :
    Keeps (.tick held) s
      (if s.frame.tickPeriod = 0 then s else tickParts.foldl (fun s part => s.deliverTick held part) s.advanceCounter) := by
  split
  · exact .refl s
  · exact .foldl _ (fun s part => .deliverTick s held part rfl) _ (.setFrame _ rfl fun h => { h with })

/-- Every row ends in a next state and changes nothing it is not named for (R190). -/
theorem exec_keeps (i : Instr) (s : State) : ∃ t, exec i s = .next t ∧ Keeps i s t := by
  cases i with
  | create p => exact ⟨_, rfl, .checkedSettles fun _ a => .createCommand p a⟩
  | start p => exact ⟨_, rfl, .checkedSettles fun _ t => .answer p _ ((((Moves.refl s).modTask t _).readyTail t).settles)⟩
  | suspend p => exact ⟨_, rfl, .checkedSettles fun _ t => .suspendCommand p t⟩
  | resume p => exact ⟨_, rfl, .checkedSettles fun _ t => .answer p _ ((Moves.refl s).readyTail t).settles⟩
  | retire p => exact ⟨_, rfl, .checkedSettles fun _ t => .retireCommand p t⟩
  | setPriority p => exact ⟨_, rfl, .checkedSettles fun _ a => .setPriorityCommand p a⟩
  | setAffinity p => exact ⟨_, rfl, .checkedSettles fun _ a => .answer p _ ((Moves.refl s).changeAffinity a.1 a.2).settles⟩
  | readTask p => exact ⟨_, rfl, .checkedSettles fun _ _ => .answer p _ (.refl s)⟩
  | haltPartition p => exact ⟨_, rfl, .takeCommand fun _ => .checked fun k _ _ => .answer p _ (.haltPartition s k _ rfl)⟩
  | releasePartition p => exact ⟨_, rfl, .takeCommand fun _ => .checked fun k _ _ => .releaseCommand s p k rfl⟩
  | purgePartition p => exact ⟨_, rfl, .checkedSettles fun _ k => .purgeCommand p k⟩
  | readPartition p => exact ⟨_, rfl, .checkedSettles fun _ _ => .answer p _ (.refl s)⟩
  | join p =>
    exact ⟨_, rfl, .checkedSettles fun _ _ =>
      .moves (.answer p _ ((Moves.refl s).setEngineState p _).settles) (.ownChoice p (.refl _))⟩
  | leave p => exact ⟨_, rfl, .checkedSettles fun _ _ => .answer p _ ((Moves.refl s).setEngineState p _).settles⟩
  | handover p => exact ⟨_, rfl, .checkedSettles fun _ w => .handoverCommand p w⟩
  | readPu p => exact ⟨_, rfl, .checkedSettles fun _ _ => .answer p _ (.refl s)⟩
  | resetPu p => exact ⟨_, rfl, .checkedSettles fun _ q => .resetPuCommand p q (.refl s)⟩
  | post p => exact ⟨_, rfl, .checkedSettles fun _ a => .postCommand p a⟩
  | readChannel p => exact ⟨_, rfl, .checkedSettles fun _ _ => .answer p _ (.refl s)⟩
  | bind p => exact ⟨_, rfl, .takeCommand fun _ => .checked fun a _ _ => .bindCommand s p a rfl⟩
  | mask p => exact ⟨_, rfl, .takeCommand fun _ => .checked fun ch _ _ => .maskCommand s p ch rfl⟩
  | unmask p => exact ⟨_, rfl, .takeCommand fun _ => .checked fun ch _ _ => .unmaskCommand s p ch rfl⟩
  | yield p => exact ⟨_, rfl, .selfCommand fun _ t w => .yieldCommand p t w (.refl s)⟩
  | wait p => exact ⟨_, rfl, .selfCommand fun c t a => .waitCommand p t (c.arg 0) a (.refl s)⟩
  | delay p =>
    exact ⟨_, rfl, .selfCommand fun c t n => .leaveBy p t (c.arg 0) _ (fun s => (Moves.refl s).startDelay t n) (.refl s)⟩
  | finish p => exact ⟨_, rfl, .selfCommand fun _ t w => .leaveBy p t w _ (fun s => (Moves.refl s).finish t) (.refl s)⟩
  | readSelf p => exact ⟨_, rfl, .selfCommand fun _ _ _ => .answer p _ (.refl s)⟩
  | configure p =>
    refine ⟨_, rfl, .takeCommand fun c => .checked fun a ha hr => .answer p _ (.setFrame _ rfl fun h => ?_)⟩
    exact FrameUnit.lawful_configured ha (by simpa using hr) h
  | startSchedule p => exact ⟨_, rfl, .takeCommand fun _ => .checked fun _ _ hr => .startScheduleCommand s p rfl hr⟩
  | stopSchedule p => exact ⟨_, rfl, .takeCommand fun _ => .checked fun _ _ _ => .stopScheduleCommand s p rfl⟩
  | writeWindow p =>
    refine ⟨_, rfl, .takeCommand fun c => .checked fun a ha hr => .answer p _ (.setFrame _ rfl fun h => ?_)⟩
    exact FrameUnit.lawful_setStandby (Bank.lawful_write (windowArgs_length ha) (FrameUnit.bank_lawful h _))
      (FrameUnit.standbyRefusal_none hr) h
  | setPlanLength p =>
    refine ⟨_, rfl, .takeCommand fun c => .checked fun n _ hr => .answer p _ (.setFrame _ rfl fun h => ?_)⟩
    exact FrameUnit.lawful_setStandby (FrameUnit.bank_lawful h _) (FrameUnit.standbyRefusal_none hr) h
  | armPlanSwitch p =>
    exact ⟨_, rfl, .takeCommand fun c => .checked fun n _ hr => .answer p _ (.setFrame _ rfl (FrameUnit.lawful_armed hr))⟩
  | readPlan p => exact ⟨_, rfl, .checkedSettles fun _ _ => .answer p _ (.refl s)⟩
  | setBudget p => exact ⟨_, rfl, .checkedSettles fun _ a => .answer p _ ((Moves.refl s).modTask a.task _).settles⟩
  | readStatus p => exact ⟨_, rfl, .checkedSettles fun _ _ => .answer p _ (.refl s)⟩
  | clearConditions p => exact ⟨_, rfl, .checkedSettles fun _ _ => .answer p _ (.setConds _)⟩
  | setAttnEnable p => exact ⟨_, rfl, .takeCommand fun _ => .checked fun m _ _ => .setAttnEnable p p m s⟩
  | systemReset p => exact ⟨_, rfl, .takeCommand fun _ => .checked fun _ _ _ => .systemReset p p s⟩
  | undefinedCommandKind p =>
    refine ⟨_, rfl, .awake ?_⟩
    split
    · split
      · exact .refuse p _ _
      · exact .refl s
    · exact .refl s
  | goDiscarded p => exact ⟨_, rfl, .awake ((Settles.writeGo p).keeps _)⟩
  | goAccepted p => exact ⟨_, rfl, .awake ((Settles.writeGo p).keeps _)⟩
  | windowFieldWrite p sel v => exact ⟨_, rfl, .awake ((Settles.setPort p _ (.refl s)).keeps _)⟩
  | hardReset => exact ⟨_, rfl, .hardReset s⟩
  | eventLineEdge n level => exact Keeps.eventLineEdge n level s
  | fsyncEdge level => exact Keeps.fsyncEdge level s
  | tick held => exact ⟨_, rfl, .awake (.tick held s)⟩
  | handoverDeadlineExpiry p =>
    obtain ⟨t, ht, hs⟩ := Settles.handoverDeadlineExpiry p (.refl s)
    exact ⟨t, ht, hs.keeps _⟩
  | delayListExpiry =>
    refine ⟨_, rfl, .awake (.takeRequest fun r s => ?_)⟩
    split
    · exact .takeDelayTick s _
    · exact .refl s
  | windowEnd =>
    refine ⟨_, rfl, .awake ?_⟩
    split
    · exact .refl s
    · exact .takeRequest fun _ s => .takeFrameTick s rfl
  | gapLimit =>
    refine ⟨_, rfl, .awake ?_⟩
    split
    · exact .takeRequest fun _ s => .takeFrameTick s rfl
    · exact .refl s
  | budgetLimitReached p => exact ⟨_, rfl, .awake (.takeRequest fun _ s => .charge s p)⟩
  | haltRequest k t => exact ⟨_, rfl, .awake (.takeRequest fun _ s => .haltPartition s k _ rfl)⟩
  | placeRequest t => exact ⟨_, rfl, .awake (.takeRequest fun _ s => ((Moves.refl s).place t.of).settles.keeps _)⟩
  | urgentArrival p kind =>
    refine ⟨_, rfl, .awake (.takeRequest fun _ s => ?_)⟩
    cases kind.of with
    | arrival => exact ((Moves.refl s).urgentArrival p).settles.keeps _
    | reEvaluation => exact ((Moves.refl s).reEvaluate p).settles.keeps _
  | windowReEvaluation p =>
    refine ⟨_, rfl, .awake (.takeRequest fun r s => ?_)⟩
    split
    · exact ((Moves.refl s).windowReEvaluate p.of _).settles.keeps _
    · exact .refl s
  | budgetFrameStart => exact ⟨_, rfl, .awake (.takeRequest fun _ s => ((Moves.refl s).takeFrameStart).settles.keeps _)⟩
  | resetRise events fsync => exact ⟨_, rfl, .resetRise events fsync s⟩

theorem keeps_of_exec {i : Instr} {s t : State} (h : exec i s = .next t) : Keeps i s t := by
  obtain ⟨t', ht, hk⟩ := exec_keeps i s
  rw [h] at ht
  cases ht
  exact hk

/-- A law that every settling decision and every row keeps, and that does not read the queue of commands, is kept by every
step: on an empty queue a step settles, else it is the row at the front (log 1). -/
theorem step_keeps (Law : State → Prop) (settles : ∀ s t, Settles s t → Law s → Law t)
    (rows : ∀ i s t, Keeps i s t → Law s → Law t) (queue : ∀ s l, Law s → Law { s with pending := l }) {s t : State}
    (h : step s = .next t) (hs : Law s) : Law t := by
  unfold step at h
  split at h
  · obtain ⟨t', ht, hset⟩ := Settles.idle (.refl s)
    rw [h] at ht
    cases ht
    exact settles s t hset hs
  · exact rows _ _ t (keeps_of_exec h) (queue s _ hs)

/-! ### The obligations -/

/-- Settles O58: a step is a row or an idle step, and neither changes a record but through `setTask`, which counts it. -/
theorem everyStepKeepsTheCounts : Obligations.EveryStepKeepsTheCounts := fun _ _ =>
  step_keeps State.CountsLaw (fun _ _ h => h.counts) (fun _ _ _ h => h.counts) fun _ _ h => h

/-- Settles O59: BIND, MASK, UNMASK and the resets write lawful records, and every other row keeps what they set. -/
theorem everyStepKeepsTheChannelLaw : Obligations.EveryStepKeepsTheChannelLaw := fun _ _ =>
  step_keeps State.ChannelLaw (fun _ _ h => h.channels) (fun _ _ _ h => h.channels) fun _ _ h => h

/-- Settles O60: the framing rows leave a lawful Frame Unit, and every other row leaves the Frame Unit alone. -/
theorem everyStepKeepsThePlanLaw : Obligations.EveryStepKeepsThePlanLaw := fun _ _ =>
  step_keeps State.PlanLaw (fun _ _ h => h.plan) (fun _ _ _ h => h.plan) fun _ _ h => h

/-- Settles O3. -/
theorem everyCommandEndsInANextState : Obligations.EveryCommandEndsInANextState := fun c s =>
  (exec_keeps c s).imp fun _ h => ⟨h.1, h.2.pending⟩

/-- Settles O56. -/
theorem onlyTheirRowsChangeTheirState : Obligations.OnlyTheirRowsChangeTheirState := fun _ _ _ h =>
  have hk := keeps_of_exec h
  ⟨hk.frame, hk.config, hk.halted, hk.enable, hk.pins⟩

/-- Settles O57. -/
theorem lawsHoldAtReset : Obligations.LawsHoldAtReset :=
  ⟨State.reset_countsLaw, State.reset_channelLaw, State.reset_planLaw⟩

end Sys2Proof.Machine
end

section
/-!
PROOFS. The checks of a captured command (O4, O5, O7, O8, O25): its class and scope, the range of every argument word, the
command's own check, and the rows that are not enabled.
-/

namespace Sys2Proof.Machine

/-! ### Class and scope (R14 (c), R192, R193) -/

section
variable {s : State} {p : Pu} {k : Partition} {t : TaskId}

theorem State.effectivePrivilege_stopped (h : s.frame.state = .stopped) : s.effectivePrivilege p = some .supervisor := by
  simp [State.effectivePrivilege, h]

theorem State.effectivePrivilege_running (h : s.frame.state ≠ .stopped) (hrun : (s.engine p).runningTask = some t) :
    s.effectivePrivilege p = some (s.task t).privilege := by
  simp [State.effectivePrivilege, State.issuerTask, h, hrun]

theorem State.classPasses_supervisor (h : s.effectivePrivilege p = some .supervisor) (cls : PrivClass) :
    s.classPasses p cls = true := by
  cases cls <;> simp [State.classPasses, h]

theorem State.inScope_supervisor (h : s.effectivePrivilege p = some .supervisor) : s.inScope p k = true := by
  simp [State.inScope, h]

theorem State.inScope_of_no_task (h : s.frame.state ≠ .stopped) (hrun : (s.engine p).runningTask = none) :
    s.inScope p k = false := by
  simp [State.inScope, State.effectivePrivilege_of_no_task h hrun]

theorem State.inScope_running (h : s.frame.state ≠ .stopped) (hrun : (s.engine p).runningTask = some t) :
    s.inScope p k = true ↔ (s.task t).privilege = .supervisor ∨ (s.task t).partition = k := by
  unfold State.inScope
  rw [State.effectivePrivilege_running h hrun]
  cases (s.task t).privilege <;> simp [State.issuerTask, hrun]

theorem State.taskInScope_iff :
    s.taskInScope p t = true ↔ (s.task t).state = .free ∨ s.inScope p (s.task t).partition = true := by
  simp [State.taskInScope]

end

/-- Settles O4. -/
theorem privilegeFollowsTheRunningTask : Obligations.PrivilegeFollowsTheRunningTask := by
  intro s p k
  refine ⟨rfl, fun h => ?stopped, fun h hrun => ?noTask, fun t h hrun => ?running, fun t => State.taskInScope_iff⟩
  case stopped =>
    have hpriv := State.effectivePrivilege_stopped (p := p) h
    exact ⟨State.classPasses_supervisor hpriv, State.inScope_supervisor hpriv⟩
  case noTask => exact ⟨fun _ => State.classPasses_of_no_task h hrun, State.inScope_of_no_task h hrun⟩
  case running =>
    have hpriv := State.effectivePrivilege_running h hrun
    exact ⟨by simp [State.classPasses, hpriv], by simp [State.classPasses, hpriv], by simp [State.classPasses, hpriv],
      State.inScope_running h hrun⟩

/-! ### What the checks come to -/

section
variable {s : State} {p : Pu} {k : BitVec 8} {c : Captured} {cls : PrivClass} {α : Type} {args : Captured → Option α}
  {refusal : Captured → α → Option Status} {perform : Captured → α → State} {x : α}

/-- An issued command with arguments in range, which its own check lets through, is performed. -/
theorem Issued.performs (h : Issued s p k cls c) (hargs : args c = some x) (hok : refusal c x = none) :
    Host.Outcome.next (φ := Fault) (ρ := Refusal)
      (s.takeCommand p k fun c => s.checked p c cls (args c) (refusal c) (perform c)) = .next (perform c x) :=
  congrArg _ (h.toCaptures.checked_performs h.allowed hargs hok)

/-- An issued command that its own check refuses for a reason other than protection is answered alone. -/
theorem Issued.onlyAnswers {st : Status} (h : Issued s p k cls c) (hargs : args c = some x) (hno : refusal c x = some st)
    (hst : st ≠ .refusedProtect) :
    Host.Outcome.next (φ := Fault) (ρ := Refusal)
      (s.takeCommand p k fun c => s.checked p c cls (args c) (refusal c) (perform c)) = .next (s.onlyAnswered p st) :=
  congrArg _ (h.toCaptures.checked_onlyAnswers h.allowed hargs hno hst)

/-- An issued command that fails a scope check is a recorded violation (R189 (b), R195). -/
theorem Issued.violates (h : Issued s p k cls c) (hargs : args c = some x) (hno : refusal c x = some .refusedProtect) :
    Host.Outcome.next (φ := Fault) (ρ := Refusal)
      (s.takeCommand p k fun c => s.checked p c cls (args c) (refusal c) (perform c)) = .next (s.protectRefused p k) := by
  rw [h.toCaptures.takeCommand_eq, hargs, State.checked_refused h.allowed hno, State.refuse_protect, h.kind]

/-- An argument out of range (R189 (c)). -/
theorem Captures.rangeRefused (h : Captures s p k c) (hcls : s.classPasses p cls = true) (hargs : args c = none) :
    Host.Outcome.next (φ := Fault) (ρ := Refusal)
      (s.takeCommand p k fun c => s.checked p c cls (args c) (refusal c) (perform c)) =
        .next (s.onlyAnswered p .refusedRange) := by
  rw [h.takeCommand_eq, hargs, State.checked_range hcls, State.refuse_eq_onlyAnswered (by decide)]

variable {selfPerform : Captured → TaskId → α → State} {t : TaskId}

/-- A self command whose issuer runs a task, with arguments in range, is performed (R125). -/
theorem Captures.selfPerforms (h : Captures s p k c) (hrun : (s.engine p).runningTask = some t) (hargs : args c = some x) :
    Host.Outcome.next (φ := Fault) (ρ := Refusal)
      (s.takeCommand p k fun c => s.selfChecked p c (args c) (selfPerform c)) = .next (selfPerform c t x) := by
  rw [h.takeCommand_eq, hargs, State.selfChecked_passes hrun]

/-- For a self command the range check follows that for a running task (R125). -/
theorem Captures.selfRangeRefused (h : Captures s p k c) (hrun : (s.engine p).runningTask ≠ none) (hargs : args c = none) :
    Host.Outcome.next (φ := Fault) (ρ := Refusal)
      (s.takeCommand p k fun c => s.selfChecked p c (args c) (selfPerform c)) = .next (s.onlyAnswered p .refusedRange) := by
  obtain ⟨t, ht⟩ := Option.ne_none_iff_exists'.mp hrun
  rw [h.takeCommand_eq, hargs, State.selfChecked_range ht, State.refuse_eq_onlyAnswered (by decide)]

end

section
variable {s : State} {p : Pu} {t : TaskId} {ok : Bool}

theorem State.taskRefusal_protect (h : s.taskInScope p t = false) : s.taskRefusal p t ok = some .refusedProtect := by
  simp [State.taskRefusal, h]

theorem State.taskRefusal_state (h : s.taskInScope p t = true) (hok : ok = false) :
    s.taskRefusal p t ok = some .refusedState := by
  simp [State.taskRefusal, h, hok]

theorem State.taskRefusal_none (h : s.taskInScope p t = true) (hok : ok = true) : s.taskRefusal p t ok = none := by
  simp [State.taskRefusal, h, hok]

end

/-! ### Argument words in range (R202, log 15): `args c` is present exactly where `outOfRange` is false -/

/-- Where the rest of a decoder does not look at the value read, it succeeds where both parts do. -/
theorem Option.any_const {α : Type} (x : Option α) (b : Bool) : (x.any fun _ => b) = (x.isSome && b) := by
  cases x <;> rfl

theorem asFin_isSome (n v : Nat) : (asFin n v).isSome = decide (v < n) := by
  unfold asFin
  split <;> simp [*]

theorem shortArg_isSome (x : Word) : (shortArg x).isSome = decide (x.toNat < 65536) := by
  unfold shortArg
  split <;> simp [*]

theorem positiveShortArg_isSome (x : Word) : (positiveShortArg x).isSome = decide (x.toNat ≠ 0 ∧ x.toNat < 65536) := by
  unfold positiveShortArg
  split <;> simp [*, shortArg_isSome]

theorem byteArg_isSome (x : Word) : (byteArg x).isSome = decide (x.toNat < 256) := by
  unfold byteArg
  split <;> simp [*]

theorem positiveByteArg_isSome (x : Word) : (positiveByteArg x).isSome = decide (x.toNat ≠ 0 ∧ x.toNat < 256) := by
  unfold positiveByteArg
  split <;> simp [*, byteArg_isSome]

theorem tickPeriodArg_isSome (x : Word) : (tickPeriodArg x).isSome = decide (x.toNat ≠ 0 ∧ x.toNat ≤ 1000) := by
  unfold tickPeriodArg
  split
  · next h => rw [positiveShortArg_isSome, decide_eq_decide]; omega
  · next h => simp [h]

theorem ticksArg_isSome (x : Word) : (ticksArg x).isSome = decide (x.toNat ≤ 16777215) := by
  unfold ticksArg Config.maxDelay
  split <;> simp [*]

theorem privilegeOf_isSome : ∀ v, (privilegeOf v).isSome = decide (v < 3)
  | 0 | 1 | 2 => rfl
  | n + 3 => (decide_eq_false (show ¬ n + 3 < 3 by omega)).symm

theorem modeOf_isSome : ∀ v, (modeOf v).isSome = decide (v < 2)
  | 0 | 1 => rfl
  | n + 2 => (decide_eq_false (show ¬ n + 2 < 2 by omega)).symm

theorem edgeOf_isSome : ∀ v, (edgeOf v).isSome = decide (v < 3)
  | 0 | 1 | 2 => rfl
  | n + 3 => (decide_eq_false (show ¬ n + 3 < 3 by omega)).symm

theorem dispositionOf_isSome : ∀ v, (dispositionOf v).isSome = decide (v < 2)
  | 0 | 1 => rfl
  | n + 2 => (decide_eq_false (show ¬ n + 2 < 2 by omega)).symm

theorem syncModeOf_isSome : ∀ v, (syncModeOf v).isSome = decide (v < 2)
  | 0 | 1 => rfl
  | n + 2 => (decide_eq_false (show ¬ n + 2 < 2 by omega)).symm

theorem bankOf_isSome : ∀ v, (bankOf v).isSome = decide (v < 2)
  | 0 | 1 => rfl
  | n + 2 => (decide_eq_false (show ¬ n + 2 < 2 by omega)).symm

theorem actionOf_isSome : ∀ v, (actionOf v).isSome = decide (v < 4)
  | 0 | 1 | 2 | 3 => rfl
  | n + 4 => (decide_eq_false (show ¬ n + 4 < 4 by omega)).symm

theorem mapEntryOf_isSome (v : Nat) : (mapEntryOf v).isSome = decide (v < 10) := by
  unfold mapEntryOf
  split
  · next k hk => rw [(asFin_eq_some k).mp hk]; simp; omega
  · next hk =>
    have h8 : 8 ≤ v := by simpa [hk] using asFin_isSome 8 v
    split
    · next h => subst h; rfl
    · split
      · next h => subst h; rfl
      · simp; omega

theorem createIdOf_isSome (v : Nat) : (createIdOf v).isSome = decide (v = 255 ∨ v < 128) := by
  unfold createIdOf
  split <;> simp [*, asFin_isSome]

theorem bits_lt (x : Word) (lo w : Nat) : bits x lo w < 2 ^ w := (x.extractLsb' lo w).isLt

theorem mapArg_isSome (x : Word) : (mapArg x).isSome = all8.all fun q => bits x (8 * q.val) 8 < 10 := by
  simp [mapArg, Option.isSome_bind, Option.any_const, mapEntryOf_isSome, all8]

theorem isSome_guarded {α : Type} (b : Prop) [Decidable b] (x : Option α) :
    (if b then none else x).isSome = (!decide b && x.isSome) := by
  split <;> simp [*]

/-- The set of ARG1, bit by bit. -/
theorem setArg_bit (x : Word) (q : Pu) : (setArg x).getLsbD q.val = x.getLsbD q.val := by
  simp [setArg, q.isLt]

theorem affinityPus_eq_nil (c : Captured) : affinityPus c = [] ↔ setArg (c.arg 1) = 0 := by
  unfold affinityPus
  rw [List.filter_eq_nil_iff]
  constructor
  · intro h
    apply BitVec.eq_of_getLsbD_eq
    intro i hi
    rw [setArg_bit _ ⟨i, hi⟩]
    simpa using h ⟨i, hi⟩ (mem_all8 _)
  · intro h q _
    rw [← setArg_bit, h]
    simp

theorem isSingle_setArg (c : Captured) : isSingle (setArg (c.arg 1)) = decide ((affinityPus c).length = 1) := by
  unfold isSingle affinityPus
  simp only [setArg_bit]

section
variable (c : Captured) (p : Pu)

theorem priorityArgs_isSome : (priorityArgs c).isSome = !outOfRange c (.setPriority p) := by
  rw [Bool.eq_iff_iff]
  simp [priorityArgs, outOfRange, Option.isSome_bind, Option.any_const, taskArg, asFin_isSome]
  omega

theorem affinityArgs_isSome : (affinityArgs c).isSome = !outOfRange c (.setAffinity p) := by
  rw [Bool.eq_iff_iff]
  simp [affinityArgs, outOfRange, Option.isSome_bind, Option.any_const, taskArg, asFin_isSome, isSome_guarded]
  omega

theorem postArgs_isSome : (postArgs c).isSome = !outOfRange c (.post p) := by
  by_cases h : (c.arg 0).toNat < 48
  · rw [Bool.eq_iff_iff]
    simp [postArgs, outOfRange, channelArg, asFin_of_lt h, Option.isSome_bind, Option.any_const, positiveByteArg_isSome,
      isSome_guarded]
    omega
  · simp [postArgs, outOfRange, channelArg, asFin_none (Nat.not_lt.mp h)]
    omega

theorem bindArgs_isSome : (bindArgs c).isSome = !outOfRange c (.bind p) := by
  rw [Bool.eq_iff_iff]
  simp [bindArgs, outOfRange, Option.isSome_bind, Option.any_const, channelArg, asFin_isSome, modeOf_isSome, edgeOf_isSome,
    dispositionOf_isSome]
  omega

theorem waitArgs_isSome : (waitArgs c).isSome = !outOfRange c (.wait p) := by
  rw [Bool.eq_iff_iff]
  simp [waitArgs, outOfRange, Option.isSome_bind, Option.any_const, channelArg, asFin_isSome, ticksArg_isSome]
  omega

theorem delayArgs_isSome : (delayArgs c).isSome = !outOfRange c (.delay p) := by
  rw [Bool.eq_iff_iff]
  simp [delayArgs, outOfRange, isSome_guarded, ticksArg_isSome]

theorem configArgs_isSome : (configArgs c).isSome = !outOfRange c (.configure p) := by
  rw [Bool.eq_iff_iff]
  simp [configArgs, outOfRange, Option.isSome_bind, Option.any_const, tickPeriodArg_isSome, positiveByteArg_isSome,
    syncModeOf_isSome, positiveShortArg_isSome]
  omega

theorem windowArgs_isSome : (windowArgs c).isSome = !outOfRange c (.writeWindow p) := by
  rw [Bool.eq_iff_iff]
  simp [windowArgs, outOfRange, Option.isSome_bind, Option.any_const, asFin_isSome, positiveShortArg_isSome, mapArg_isSome,
    mem_all8, Nat.lt_succ_iff, and_assoc]

theorem framesArgs_isSome : (framesArgs c).isSome = !outOfRange c (.armPlanSwitch p) := by
  rw [Bool.eq_iff_iff]
  simp [framesArgs, outOfRange, byteArg_isSome, Nat.lt_succ_iff]

theorem readPlanArgs_isSome : (readPlanArgs c).isSome = !outOfRange c (.readPlan p) := by
  rw [Bool.eq_iff_iff]
  simp [readPlanArgs, outOfRange, Option.isSome_bind, Option.any_const, asFin_isSome, bankOf_isSome]
  omega

theorem budgetArgs_isSome : (budgetArgs c).isSome = !outOfRange c (.setBudget p) := by
  by_cases h1 : (c.arg 1).toNat ≤ 65535
  · by_cases h2 : (c.arg 2).toNat ≤ 65535
    · have e1 : (c.arg 1).toNat % 65536 = (c.arg 1).toNat := by omega
      have e2 : (c.arg 2).toNat % 65536 = (c.arg 2).toNat := by omega
      rw [Bool.eq_iff_iff]
      simp [budgetArgs, outOfRange, shortArg_some _ h1, shortArg_some _ h2, Option.isSome_bind, Option.any_const, taskArg,
        asFin_isSome, actionOf_isSome, isSome_guarded, e1, e2]
      omega
    · simp [budgetArgs, outOfRange, shortArg, show ¬ (c.arg 2).toNat < 65536 by omega, show 65535 < (c.arg 2).toNat by omega]
  · simp [budgetArgs, outOfRange, shortArg, show ¬ (c.arg 1).toNat < 65536 by omega, show 65535 < (c.arg 1).toNat by omega]

theorem createArgs_isSome : (createArgs c).isSome = !outOfRange c (.create p) := by
  have hbit : bits (c.arg 0) 24 1 < 2 := bits_lt ..
  rw [Bool.eq_iff_iff]
  simp [createArgs, outOfRange, Option.isSome_bind, Option.any_const, createIdOf_isSome, asFin_isSome, privilegeOf_isSome,
    isSome_guarded, affinityPus_eq_nil, isSingle_setArg]
  grind

end

/-! ### Range failures -/

section
variable {s : State} {p : Pu} {c : Captured}

/-- A row with a class check refuses its arguments exactly where one is out of range. -/
theorem exec_rangeRefused {i : Instr} {k : BitVec 8} {cls : PrivClass} (hrow : classRow i = some (p, k, cls))
    (hc : Captures s p k c) (hcls : s.classPasses p cls = true) (hout : outOfRange c i = true) :
    exec i s = .next (s.onlyAnswered p .refusedRange) := by
  have hnone {α : Type} {x : Option α} (h : x.isSome = !outOfRange c i) : x = none := by
    rw [hout] at h
    exact Option.not_isSome_iff_eq_none.mp (by rw [h]; decide)
  have hfin {n m : Nat} (x : Word) (hx : outOfRange c i = decide (m < x.toNat)) (hn : n = m + 1) :
      asFin n x.toNat = none := by
    rw [hout] at hx
    exact asFin_none (hn ▸ Nat.succ_le_of_lt (of_decide_eq_true hx.symm))
  cases i <;> cases hrow
  case create => exact hc.rangeRefused hcls (hnone (createArgs_isSome c p))
  case setPriority => exact hc.rangeRefused hcls (hnone (priorityArgs_isSome c p))
  case setAffinity => exact hc.rangeRefused hcls (hnone (affinityArgs_isSome c p))
  case post => exact hc.rangeRefused hcls (hnone (postArgs_isSome c p))
  case bind => exact hc.rangeRefused hcls (hnone (bindArgs_isSome c p))
  case configure => exact hc.rangeRefused hcls (hnone (configArgs_isSome c p))
  case writeWindow => exact hc.rangeRefused hcls (hnone (windowArgs_isSome c p))
  case readPlan => exact hc.rangeRefused hcls (hnone (readPlanArgs_isSome c p))
  case setBudget => exact hc.rangeRefused hcls (hnone (budgetArgs_isSome c p))
  case armPlanSwitch => exact hc.rangeRefused hcls (hnone (framesArgs_isSome c p))
  case start | suspend | resume | retire | readTask | haltPartition | releasePartition | purgePartition | readPartition
     | readPu | resetPu | readChannel | mask | unmask | setPlanLength => exact hc.rangeRefused hcls (hfin (c.arg 0) rfl rfl)
  case join | leave | handover | startSchedule | stopSchedule | readStatus | clearConditions | setAttnEnable | systemReset =>
    cases hout

/-- A self command with a running task refuses its arguments exactly where one is out of range (R125). -/
theorem exec_selfRangeRefused {i : Instr} {k : BitVec 8} (hrow : selfRow i = some (p, k)) (hc : Captures s p k c)
    (hrun : (s.engine p).runningTask ≠ none) (hout : outOfRange c i = true) :
    exec i s = .next (s.onlyAnswered p .refusedRange) := by
  have hnone {α : Type} {x : Option α} (h : x.isSome = !outOfRange c i) : x = none := by
    rw [hout] at h
    exact Option.not_isSome_iff_eq_none.mp (by rw [h]; decide)
  cases i <;> cases hrow
  case wait => exact hc.selfRangeRefused hrun (hnone (waitArgs_isSome c p))
  case delay => exact hc.selfRangeRefused hrun (hnone (delayArgs_isSome c p))
  case yield | finish | readSelf => cases hout

/-- A kind that names no command is answered REFUSED_RANGE, with no violation (R189 (a)). -/
theorem exec_undefinedCommandKind {k : BitVec 8} (hc : Captures s p k c) (hk : k = 0 ∨ 40 ≤ k.toNat) :
    exec (.undefinedCommandKind p) s = .next (s.onlyAnswered p .refusedRange) := by
  have hnames : namesNoCommand c.kind = true := by
    rw [hc.kind]
    rcases hk with rfl | hk
    · rfl
    · simp [namesNoCommand, hk]
  show Host.Outcome.next (s.awake _) = _
  rw [State.awake_high hc.awake, hc.captured]
  simp only [hnames, if_true, State.refuse_eq_onlyAnswered (show Status.refusedRange ≠ .refusedProtect by decide)]

end

/-- Settles O5. -/
theorem rangeFailureChangesNothingElse : Obligations.RangeFailureChangesNothingElse := by
  refine fun p c s => ⟨fun i k hc hout hrow => ?_, fun k hc hk => exec_undefinedCommandKind hc hk⟩
  rcases hrow with ⟨cls, hrow, hcls⟩ | ⟨hrow, hrun⟩
  · exact exec_rangeRefused hrow hc hcls hout
  · exact exec_selfRangeRefused hrow hc hrun hout

/-! ### Scope failures (R195) -/

section
variable {s : State} {p : Pu} {c : Captured} {t : TaskId}

theorem exists_some_of_inRange {α : Type} {x : Option α} {i : Instr} (h : x.isSome = !outOfRange c i)
    (hin : outOfRange c i = false) : ∃ a, x = some a := by
  rw [hin] at h
  exact Option.isSome_iff_exists.mp h

theorem taskArgs_some (h : (c.arg 0).toNat = t.val) : taskArgs c = some t := asFin_some t h

theorem priorityArgs_task {a : TaskId × Priority} (h : (c.arg 0).toNat = t.val) (ha : priorityArgs c = some a) :
    a.1 = t := by
  simp only [priorityArgs, taskArg, asFin_some t h, Option.bind_eq_bind, Option.bind_some, Option.bind_eq_some_iff] at ha
  obtain ⟨q, -, hq⟩ := ha
  cases hq
  rfl

theorem affinityArgs_task {a : TaskId × BitVec 8} (h : (c.arg 0).toNat = t.val) (ha : affinityArgs c = some a) :
    a.1 = t := by
  simp only [affinityArgs, taskArg, asFin_some t h, Option.bind_eq_bind, Option.bind_some] at ha
  split at ha
  · cases ha
  · cases ha; rfl

theorem budgetArgs_task {a : BudgetArgs} (h : (c.arg 0).toNat = t.val) (ha : budgetArgs c = some a) : a.task = t := by
  simp only [budgetArgs, taskArg, asFin_some t h, Option.bind_eq_bind, Option.bind_some, Option.bind_eq_some_iff] at ha
  obtain ⟨l, -, w, -, b, -, ha⟩ := ha
  split at ha
  · cases ha
  · cases ha; rfl

/-- The own-partition rule holds for every command on a named task (R14 (c), R182 (c)). -/
theorem exec_scopeRefused {i : Instr} {k : BitVec 8} {cls : PrivClass} (hi : onTaskCommand i = true)
    (hrow : classRow i = some (p, k, cls)) (hc : Issued s p k cls c) (hin : outOfRange c i = false)
    (ht : (c.arg 0).toNat = t.val) (hscope : s.taskInScope p t = false) : exec i s = .next (s.protectRefused p k) := by
  cases i <;> cases hi <;> cases hrow
  case start | suspend | resume | retire | readTask =>
    exact hc.violates (taskArgs_some ht) (State.taskRefusal_protect hscope)
  case setPriority =>
    obtain ⟨a, ha⟩ := exists_some_of_inRange (priorityArgs_isSome c p) hin
    exact hc.violates ha (State.taskRefusal_protect (priorityArgs_task ht ha ▸ hscope))
  case setAffinity =>
    obtain ⟨a, ha⟩ := exists_some_of_inRange (affinityArgs_isSome c p) hin
    exact hc.violates ha (State.taskRefusal_protect (affinityArgs_task ht ha ▸ hscope))
  case setBudget =>
    obtain ⟨a, ha⟩ := exists_some_of_inRange (budgetArgs_isSome c p) hin
    exact hc.violates ha (State.taskRefusal_protect (budgetArgs_task ht ha ▸ hscope))

/-- The limits on a MANAGER's CREATE (R15 (b)). -/
theorem State.createAllowed_false {a : CreateArgs} (hpriv : s.effectivePrivilege p ≠ some .supervisor)
    (h : a.cls = .handler ∨ a.privilege ≠ .user ∨ s.inScope p a.partition = false) : s.createAllowed p a = false := by
  rcases h with h | h | h <;> simp [State.createAllowed, hpriv, h]

theorem State.createRefusal_protect {a : CreateArgs} (h : s.createAllowed p a = false) :
    s.createRefusal p a = some .refusedProtect := by
  simp [State.createRefusal, h]

theorem State.mayPost_false {ch : ChannelId} (hpriv : s.effectivePrivilege p ≠ some .supervisor)
    (h : ∀ t, (s.engine p).runningTask = some t → (s.channel ch).postRights.getLsbD (s.task t).partition.val = false) :
    s.mayPost p ch = false := by
  simp only [State.mayPost, decide_eq_false hpriv, Bool.false_or]
  split
  · next t ht => exact h t ht
  · rfl

theorem postArgs_inRange {ch : ChannelId} (hin : outOfRange c (.post p) = false) (hch : (c.arg 0).toNat = ch.val) :
    postArgs c = some (ch, (c.arg 1).setWidth 8) := by
  simp only [outOfRange, Bool.or_eq_false_iff, decide_eq_false_iff_not] at hin
  exact postArgs_some ch hch (by omega) (by omega) (by omega)

end

/-- Settles O7: a class check is the same for every row; the scope checks are the commands' own. -/
theorem protectionViolationsAreRefusedAndRecorded : Obligations.ProtectionViolationsAreRefusedAndRecorded := by
  intro p c s
  refine ⟨fun i k cls hrow hc hcls => exec_protectRefused hrow hc hcls,
    fun i k cls t hi hrow hc hin ht hscope => exec_scopeRefused hi hrow hc hin ht hscope, ?create, ?post, ?readPartition,
    ?resetPu⟩
  case create =>
    exact fun a hc ha hpriv h => hc.violates ha (State.createRefusal_protect (State.createAllowed_false hpriv h))
  case post =>
    exact fun ch hc hin hch hpriv h => hc.violates (postArgs_inRange hin hch) (by simp [State.mayPost_false hpriv h])
  case readPartition => exact fun k hc hk hscope => hc.violates (asFin_some k hk) (by simp [hscope])
  case resetPu => exact fun hc hp => hc.violates (asFin_some p hp) (by simp)

/-! ### State failures (R14 (d)) -/

section
variable {s : State} {p : Pu} {c : Captured} {t : TaskId}

theorem State.createRefusal_state {a : CreateArgs} (hallowed : s.createAllowed p a = true)
    (hscope : s.createInScope p a = true)
    (h : (s.part a.partition).purge ≠ none ∨ ∃ t, a.id = some t ∧ (s.task t).state ≠ .free) :
    s.createRefusal p a = some .refusedState := by
  by_cases hpurge : (s.part a.partition).purge = none
  · obtain ⟨t, hid, ht⟩ := h.resolve_left fun hne => hne hpurge
    simp [State.createRefusal, hallowed, hscope, hpurge, hid, ht]
  · simp [State.createRefusal, hallowed, hscope, Option.isSome_iff_ne_none.mpr hpurge]

theorem State.createRefusal_noResource {a : CreateArgs} (hallowed : s.createAllowed p a = true)
    (hscope : s.createInScope p a = true) (hpurge : (s.part a.partition).purge = none) (hid : a.id = none)
    (hnone : ∀ t, (s.task t).state ≠ .free) : s.createRefusal p a = some .noResource := by
  have hfree : s.lowestFree = none := by simp [State.lowestFree, hnone]
  simp [State.createRefusal, hallowed, hscope, hpurge, hid, hfree]

theorem FrameUnit.startRefusal_some {f : FrameUnit}
    (h : f.state ≠ .stopped ∨ f.tickPeriod = 0 ∨
      (f.activeBank.count = 0 ∧ ¬(f.syncMode = .free ∧ f.countdown = 1 ∧ f.standbyBank.count ≠ 0))) :
    f.startRefusal = some .refusedState := by
  refine if_neg fun ⟨hs, ht, hplan⟩ => ?_
  rcases h with h | h | ⟨hactive, hno⟩
  · exact h hs
  · exact ht h
  · rcases FrameUnit.planReady_iff.mp hplan with hpos | ⟨hm, hc, hpos⟩
    · rw [hactive] at hpos; exact absurd hpos (by decide)
    · exact hno ⟨hm, hc, fun he => by rw [he] at hpos; exact absurd hpos (by decide)⟩

theorem FrameUnit.standbyRefusal_some {f : FrameUnit} (h : f.countdown ≠ 0) : f.standbyRefusal = some .refusedState :=
  if_neg h

theorem framesArgs_some {n : BitVec 8} (h : (c.arg 0).toNat = n.toNat) : framesArgs c = some n := by
  have hlt : (c.arg 0).toNat < 256 := h ▸ n.isLt
  rw [framesArgs, byteArg, if_pos hlt]
  refine congrArg some (BitVec.eq_of_toNat_eq ?_)
  rw [BitVec.toNat_setWidth, Nat.mod_eq_of_lt hlt, h]

/-- The lifecycle commands and SET_BUDGET on a task whose state they do not take (R17 to R24, R182). -/
theorem exec_taskStateRefused (h : OnTask s p c t) :
    (Issued s p 2 .manager c → (s.task t).state ≠ .dormant ∨ (s.part (s.task t).partition).purge ≠ none →
      exec (.start p) s = .next (s.onlyAnswered p .refusedState)) ∧
    (Issued s p 3 .manager c →
      (s.task t).state = .free ∨ (s.task t).state = .dormant ∨ (s.task t).state = .suspended →
      exec (.suspend p) s = .next (s.onlyAnswered p .refusedState)) ∧
    (Issued s p 4 .manager c → (s.task t).state ≠ .suspended ∨ (s.part (s.task t).partition).purge ≠ none →
      exec (.resume p) s = .next (s.onlyAnswered p .refusedState)) ∧
    (Issued s p 5 .manager c → (s.task t).state = .free → exec (.retire p) s = .next (s.onlyAnswered p .refusedState)) ∧
    (Issued s p 6 .manager c → (c.arg 1).toNat ≤ 7 → (s.task t).state = .free →
      exec (.setPriority p) s = .next (s.onlyAnswered p .refusedState)) ∧
    (Issued s p 7 .manager c → setArg (c.arg 1) ≠ 0 → (s.task t).state = .free ∨ (s.task t).cls = .handler →
      exec (.setAffinity p) s = .next (s.onlyAnswered p .refusedState)) ∧
    (Issued s p 35 .manager c → outOfRange c (.setBudget p) = false → (s.task t).state = .free →
      exec (.setBudget p) s = .next (s.onlyAnswered p .refusedState)) := by
  have refused {ok : Bool} (hok : ok = false) : s.taskRefusal p t ok = some .refusedState :=
    State.taskRefusal_state h.scope hok
  have htask := taskArgs_some h.named
  have purged (ok : Bool) (hno : ok = false ∨ (s.part (s.task t).partition).purge ≠ none) :
      (ok && !s.purging t) = false := by
    rcases hno with hno | hno
    · simp [hno]
    · simp [State.purging, Option.isSome_iff_ne_none.mpr hno]
  refine ⟨fun hc hno => ?start, fun hc hno => ?suspend, fun hc hno => ?resume, fun hc hno => ?retire,
    fun hc hq hno => ?setPriority, fun hc hset hno => ?setAffinity, fun hc hin hno => ?setBudget⟩
  case start => exact hc.onlyAnswers htask (refused (purged _ (hno.imp_left decide_eq_false))) (by decide)
  case suspend =>
    refine hc.onlyAnswers htask (refused ?_) (by decide)
    rcases hno with hno | hno | hno <;> rw [hno] <;> rfl
  case resume => exact hc.onlyAnswers htask (refused (purged _ (hno.imp_left decide_eq_false))) (by decide)
  case retire => exact hc.onlyAnswers htask (refused (by simp [hno])) (by decide)
  case setPriority =>
    have ha := priorityArgs_some t ⟨(c.arg 1).toNat, Nat.lt_succ_of_le hq⟩ h.named rfl
    exact hc.onlyAnswers ha (refused (by simp [hno])) (by decide)
  case setAffinity =>
    refine hc.onlyAnswers (affinityArgs_some t h.named hset) (refused ?_) (by decide)
    rcases hno with hno | hno <;> simp [hno, State.isHandler]
  case setBudget =>
    obtain ⟨a, ha⟩ := exists_some_of_inRange (budgetArgs_isSome c p) hin
    have hat := budgetArgs_task h.named ha
    exact hc.onlyAnswers ha (by rw [hat]; exact refused (by simp [hno])) (by decide)

/-- The PU-level commands in an engine state they do not take (R60, R72, R73). -/
theorem exec_puStateRefused :
    (Issued s p 13 .puLevel c →
      ((s.engine p).st = .faulted → exec (.join p) s = .next (s.onlyAnswered p .puFaulted)) ∧
      ((s.engine p).st ≠ .faulted → (s.engine p).st ≠ .offline →
        exec (.join p) s = .next (s.onlyAnswered p .refusedState))) ∧
    (Issued s p 14 .puLevel c → (s.engine p).st ≠ .idle → exec (.leave p) s = .next (s.onlyAnswered p .refusedState)) ∧
    (Issued s p 15 .puLevel c →
      ((s.engine p).st = .idle ∨ (∃ t, (s.engine p).st = .running t) →
        exec (.handover p) s = .next (s.onlyAnswered p .stale)) ∧
      ((s.engine p).st = .offline → exec (.handover p) s = .next (s.onlyAnswered p .refusedState)) ∧
      ((s.engine p).st = .faulted → exec (.handover p) s = .next (s.onlyAnswered p .puFaulted))) := by
  refine ⟨fun hc => ⟨fun hf => exec_join_faulted hf hc.toCaptures, fun hnf hno => ?join⟩, fun hc hno => ?leave,
    fun hc => ⟨fun hst => ?stale, fun hst => ?offline, fun hf => exec_handover_faulted hf hc.toCaptures⟩⟩
  case join =>
    have hjoin : (s.engine p).st.joinRefusal = some .refusedState := by
      cases hst : (s.engine p).st with
      | offline => exact absurd hst hno
      | faulted => exact absurd hst hnf
      | idle | switching _ | running _ => rfl
    exact hc.onlyAnswers rfl hjoin (by decide)
  case leave => exact hc.onlyAnswers rfl (if_neg hno) (by decide)
  case stale =>
    have hstale : (s.engine p).st.handoverRefusal = some .stale := by
      rcases hst with hst | ⟨t, hst⟩ <;> rw [hst] <;> rfl
    exact hc.onlyAnswers rfl hstale (by decide)
  case offline => exact hc.onlyAnswers rfl (by rw [hst]; rfl) (by decide)

end

/-- Settles O8: each command's own check fails on the state named, and a refusal but REFUSED_PROTECT is the bare response. -/
theorem stateFailureChangesNothingElse : Obligations.StateFailureChangesNothingElse := by
  intro p c s
  obtain ⟨hjoin, hleave, hhandover⟩ := exec_puStateRefused (s := s) (p := p) (c := c)
  refine ⟨fun t h => exec_taskStateRefused h, fun k hk => ⟨fun hc hno => ?release, fun hc hno => ?purge⟩,
    fun a hc ha hallowed hscope => ⟨fun h => ?create, fun hpurge hid hnone => ?noResource⟩, hjoin, hleave, hhandover,
    fun hc hin hno => ?configure, fun hc h => ?startSchedule, fun hc hs => ?stopSchedule, fun hc hin hno => ?writeWindow,
    fun hc hin hno => ?setPlanLength, fun hc hpos hle hno => ?armPlanSwitch,
    fun i k hrow hc hrun => exec_notRunning hrow hc hrun⟩
  case release => exact hc.onlyAnswers (asFin_some k hk) (by simp [hno]) (by decide)
  case purge => exact hc.onlyAnswers (asFin_some k hk) (if_pos (Option.isSome_iff_ne_none.mpr hno)) (by decide)
  case create => exact hc.onlyAnswers ha (State.createRefusal_state hallowed hscope h) (by decide)
  case noResource => exact hc.onlyAnswers ha (State.createRefusal_noResource hallowed hscope hpurge hid hnone) (by decide)
  case configure =>
    obtain ⟨a, ha⟩ := exists_some_of_inRange (configArgs_isSome c p) hin
    exact hc.onlyAnswers ha (if_neg hno) (by decide)
  case startSchedule => exact hc.onlyAnswers rfl (FrameUnit.startRefusal_some h) (by decide)
  case stopSchedule => exact hc.onlyAnswers rfl (if_pos hs) (by decide)
  case writeWindow =>
    obtain ⟨a, ha⟩ := exists_some_of_inRange (windowArgs_isSome c p) hin
    exact hc.onlyAnswers ha (FrameUnit.standbyRefusal_some hno) (by decide)
  case setPlanLength =>
    have hlt : (c.arg 0).toNat < 25 := by simpa [outOfRange, Nat.lt_succ_iff] using hin
    exact hc.onlyAnswers (asFin_of_lt hlt) (FrameUnit.standbyRefusal_some hno) (by decide)
  case armPlanSwitch =>
    have ha : framesArgs c = some ((c.arg 0).setWidth 8) := if_pos (Nat.lt_succ_of_le hle)
    have hn : (c.arg 0).setWidth 8 ≠ (0 : BitVec 8) := by
      intro h
      have := congrArg BitVec.toNat h
      simp at this
      omega
    exact hc.onlyAnswers ha (if_pos ⟨hn, congrArg Fin.val hno⟩) (by decide)

/-! ### Rows that are not enabled (log 2, log 3) -/

theorem CapturesNone.takeCommand_eq {s : State} {p : Pu} {k : BitVec 8} {body : Captured → State} (h : CapturesNone s p k) :
    s.takeCommand p k body = s := State.takeCommand_else h

theorem State.awake_of_eq {s : State} {f : State → State} (h : f s = s) : s.awake f = s := by
  unfold State.awake
  split
  · rfl
  · exact h

/-- Settles O25. -/
theorem rowsNotEnabledChangeNothing : Obligations.RowsNotEnabledChangeNothing := by
  intro s
  have untaken {want : Request → Bool} {nth : Nat} (act : Request → State → State)
      (h : nthRequest want nth s.requests = none) :
      Host.Outcome.next (φ := Fault) (ρ := Refusal) (s.awake (State.takeRequest want nth act)) = .next s :=
    congrArg _ (State.awake_of_eq (State.takeRequest_none h))
  refine ⟨fun i p k hrow hno => ?command, fun t nth h => untaken _ h, fun p kind nth h => untaken _ h,
    fun p nth h => untaken _ h, fun k t h => untaken _ h, fun h => untaken _ h, fun h => ⟨?windowEnd, ?gapLimit⟩,
    fun h => untaken _ h, fun p h => untaken _ h⟩
  case command =>
    rcases hrow with ⟨cls, hrow⟩ | hrow
    · obtain ⟨α, args, refusal, perform, hexec⟩ := exec_of_classRow (s := s) hrow
      rw [hexec, hno.takeCommand_eq]
    · obtain ⟨α, args, perform, hexec⟩ := exec_of_selfRow (s := s) hrow
      rw [hexec, hno.takeCommand_eq]
  case windowEnd => exact congrArg _ (State.awake_of_eq (by simp [State.takeRequest_none h]))
  case gapLimit => exact congrArg _ (State.awake_of_eq (by simp [State.takeRequest_none h]))

end Sys2Proof.Machine
end

section
/-!
PROOFS. Steps, resets, ports and reads (O1, O2, O6, O17, O18, O54, O55).
-/

namespace Sys2Proof.Machine

/-! ### A step (log 1) -/

theorem Engine.elapse_switching {e : Engine} {sw : Switch} (n : BitVec 8) (h : e.st = .switching sw) :
    e.elapse n = { e with st := .switching { sw with remaining := sw.remaining - n } } := by
  simp only [Engine.elapse, h]

theorem Engine.elapse_other {e : Engine} (n : BitVec 8) (h : ∀ sw, e.st ≠ .switching sw) : e.elapse n = e := by
  unfold Engine.elapse
  split
  · next sw hsw => exact absurd hsw (h sw)
  · rfl

/-- The PU is SWITCHING and nothing is left of its limit. -/
theorem State.ranOut_iff {s : State} {q : Pu} :
    (∃ sw, (s.engine q).st = .switching sw ∧ sw.remaining = 0) ↔ (s.engine q).timeLeft = some 0 :=
  Engine.timeLeft_iff.symm

theorem State.firstDue_none {s : State} (h : ∀ q, (s.engine q).timeLeft ≠ some 0) : s.firstDue = none := by
  exact List.find?_eq_none.mpr fun q _ => by simpa using h q

theorem State.firstDue_some {s : State} {q : Pu} (hq : (s.engine q).timeLeft = some 0)
    (first : ∀ r, (s.engine r).timeLeft = some 0 → q ≤ r) : s.firstDue = some q := by
  refine (all8_find _ q).mpr ⟨by simp [hq], fun r hr => ?_⟩
  simpa using fun h => absurd (first r h) (not_le.mpr hr)

theorem step_empty {s : State} (h : s.pending = []) : step s = execIdle s := by
  simp only [step, h]

/-- Settles O1. -/
theorem stepTakesTheFrontCommand : Obligations.StepTakesTheFrontCommand := by
  refine ⟨fun c rest s => rfl, fun s => ?_⟩
  simp only [State.ranOut_iff]
  refine ⟨fun hempty hnone => ?_, fun q hempty hq first => ?_, fun n => ⟨s.elapse_engines n, fun q => ⟨fun sw hsw => ?_,
    fun hno => ?_⟩⟩⟩
  · rw [step_empty hempty, execIdle, State.firstDue_none hnone]
  · rw [step_empty hempty, execIdle, State.firstDue_some hq first]
    rfl
  · rw [State.elapse_engine_read, Engine.elapse_switching n hsw]
  · rw [State.elapse_engine_read, Engine.elapse_other n hno]

/-! ### The resets (R12, R201, R206) -/

theorem State.reset_engine (p : Pu) : State.reset.engine p = {} := Vector.getElem_replicate ..

theorem State.reset_port (p : Pu) : State.reset.port p = {} := Vector.getElem_replicate ..

theorem State.reset_urgentQueue (p : Pu) : State.reset.urgentQueue p = [] := Vector.getElem_replicate ..

theorem State.reset_readyQueue (k : Partition) (q : Priority) : State.reset.readyQueue k q = [] := by
  simp [State.readyQueue, State.reset]

/-- Settles O2. -/
theorem resetHoldsTheSpecsValues : Obligations.ResetHoldsTheSpecsValues := by
  refine ⟨State.reset_task, State.reset_part, State.reset_readyQueue, State.reset_urgentQueue, State.reset_engine,
    State.reset_channel, rfl, ⟨rfl, rfl, rfl, rfl, rfl, rfl, rfl, rfl, rfl, rfl, rfl, rfl, rfl⟩, fun id => ?_,
    State.reset_port, rfl,
    rfl⟩
  cases id with
  | a | b => exact ⟨rfl, fun i => Vector.getElem_replicate ..⟩

section
variable (s : State)

theorem State.warmReset_engine (q : Pu) : s.warmReset.engine q = (s.engine q).warm := by
  simp [State.engine, State.warmReset]

theorem State.warmReset_port (q : Pu) : s.warmReset.port q = (s.port q).warm := by
  simp [State.port, State.warmReset]

theorem Engine.warm_eq (e : Engine) :
    e.warm = ⟨if e.st = .offline ∨ e.st = .faulted then .offline else .idle, [], 0, 0, 0⟩ := by
  unfold Engine.warm Engine.present
  cases e.st <;> rfl

theorem Port.warm_quiet {r : Port} (h : ∀ x, r.state ≠ .busy x) : r.warm = { r with overrun := false } := by
  unfold Port.warm
  split
  · next x hx => exact absurd hx (h x)
  · rfl

theorem Port.warm_busy {r : Port} {x : Captured} (h : r.state = .busy x) :
    r.warm = { r with
      state := .done, status := some .aborted, outcome := .none, superseded := false, res := Vector.replicate 6 0
      overrun := false } := by
  simp only [Port.warm, h]
  rfl

/-- A warm port that is then answered, as SYSTEM_RESET answers its own (R201 (a)). -/
theorem Port.warm_answered (r : Port) :
    Port.answered .done .none false [] r.warm = { r with
      state := .done, status := some .done, outcome := .none, superseded := false, res := Vector.replicate 6 0
      overrun := false } := by
  unfold Port.warm
  cases r.state <;> rfl

end

/-- Settles O54: the next state is the warm reset with its port answered, read block by block. -/
theorem systemResetIsAWarmReset : Obligations.SystemResetIsAWarmReset := by
  intro p c s hc
  refine ⟨_, exec_systemReset hc.toCaptures hc.allowed, State.reset_task, State.reset_part, State.reset_readyQueue,
    State.reset_urgentQueue, rfl, rfl, fun q => ?engine, fun ch => State.warmReset_channel s ch, rfl, ?own,
    fun q hq hidle => ?quiet,
    fun q x hq hbusy => ?busy, rfl, rfl, rfl⟩
  case engine => rw [State.answer_eq, State.setPort_engine_read, State.warmReset_engine, Engine.warm_eq]
  case own => rw [State.answer_eq, State.port_setPort_same, State.warmReset_port, Port.warm_answered]
  case quiet => rw [State.answer_eq, State.port_setPort, if_neg (Ne.symm hq), State.warmReset_port, Port.warm_quiet hidle]
  case busy => rw [State.answer_eq, State.port_setPort, if_neg (Ne.symm hq), State.warmReset_port, Port.warm_busy hbusy]

/-- While RESET# is low, every row but those that drive a pin is held (R206). -/
theorem exec_resetLow {s : State} {i : Instr} (h : s.pins.resetLow = true) (hi : onPins i = false) :
    exec i s = .next s := by
  have untaken {p : Pu} {kind : BitVec 8} (body : Captured → State) :
      Host.Outcome.next (φ := Fault) (ρ := Refusal) (s.takeCommand p kind body) = .next s :=
    congrArg _ (State.takeCommand_else (.inl h))
  have asleep (f : State → State) : Host.Outcome.next (φ := Fault) (ρ := Refusal) (s.awake f) = .next s :=
    congrArg _ (State.awake_low h)
  cases i
  case hardReset | eventLineEdge | fsyncEdge | resetRise => cases hi
  case undefinedCommandKind | goDiscarded | goAccepted | windowFieldWrite | tick | handoverDeadlineExpiry
     | delayListExpiry | windowEnd | gapLimit | budgetLimitReached | haltRequest | placeRequest | urgentArrival
     | windowReEvaluation | budgetFrameStart => exact asleep _
  all_goals exact untaken _

/-- Settles O55. -/
theorem hardResetHoldsUntilTheRise : Obligations.HardResetHoldsUntilTheRise := by
  refine fun s => ⟨rfl, fun events fsync => ⟨fun h => ?rise, fun h => ?high⟩, fun h =>
    ⟨fun n level => ?line, fun level => ?fsync, fun i hreset hrise hline hfsync => ?held⟩⟩
  case rise => exact congrArg Host.Outcome.next (if_pos h)
  case high => exact congrArg Host.Outcome.next (if_neg (by rw [h]; decide))
  case line => exact congrArg Host.Outcome.next (if_neg fun hedge => by rw [h] at hedge; cases hedge.1)
  case fsync => exact congrArg Host.Outcome.next (if_neg fun hedge => by rw [h] at hedge; cases hedge.1)
  case held =>
    refine exec_resetLow h ?_
    cases i
    case hardReset => exact absurd rfl hreset
    case eventLineEdge n level => exact absurd rfl (hline n level)
    case fsyncEdge level => exact absurd rfl (hfsync level)
    case resetRise events fsync => exact absurd rfl (hrise events fsync)
    all_goals rfl

/-! ### Ports (R187 to R191, R202) -/

section
variable {s : State} {p : Pu}

/-- Both rows of a write to GO are the same write (log 13). -/
theorem exec_writeGo {i : Instr} (hi : i = .goAccepted p ∨ i = .goDiscarded p) (h : s.pins.resetLow = false) :
    exec i s = .next (s.writeGo p) := by
  rcases hi with rfl | rfl <;> exact congrArg Host.Outcome.next (State.awake_high h)

theorem State.writeGo_quiet (h : ∀ c, (s.port p).state ≠ .busy c) : s.writeGo p = s.modPort p Port.accepted := by
  unfold State.writeGo
  split
  · next c hc => exact absurd hc (h c)
  · rfl

theorem State.writeGo_busy {c : Captured} (h : (s.port p).state = .busy c) :
    s.writeGo p = (s.modPort p fun r => { r with overrun := true }).latch .portOverrun := by
  simp only [State.writeGo, h]

theorem resWords_get (l : List Word) (i : Fin 6) : (resWords l)[i] = l.getD i.val 0 := by
  fin_cases i <;> rfl

theorem Port.written_arg (r : Port) (i : Fin 6) (v : Word) :
    r.written (BitVec.ofNat 5 (i.val + 1)) v = { r with args := put r.args i v } := by
  fin_cases i <;> rfl

theorem State.readWindow_arg (i : Fin 6) : s.readWindow p (BitVec.ofNat 5 (i.val + 1)) = (s.port p).args[i] := by
  fin_cases i <;> rfl

theorem State.readWindow_res (i : Fin 6) : s.readWindow p (BitVec.ofNat 5 (i.val + 10)) = (s.port p).res[i] := by
  fin_cases i <;> rfl

theorem State.readWindow_status : s.readWindow p 8 = low (statusCode (s.port p).status) := rfl

/-- A flag in bit 8, beside one of the codes of R202. -/
theorem packed_flag :
    ∀ code < 5, ∀ b : Bool, packed [(0, code), (8, flagCode b)] = BitVec.ofNat 64 (code + if b then 256 else 0) := by
  decide

theorem OutcomeCode.code_lt (oc : OutcomeCode) : oc.code < 5 := by cases oc <;> decide

theorem PortState.code_lt (st : PortState) : st.code < 5 := by
  cases st with
  | idle => exact show 0 < 5 by decide
  | busy _ => exact show 1 < 5 by decide
  | done => exact show 2 < 5 by decide

theorem State.readWindow_outcome :
    s.readWindow p 9 = BitVec.ofNat 64 ((s.port p).outcome.code + if (s.port p).superseded then 256 else 0) :=
  packed_flag _ (OutcomeCode.code_lt _) _

theorem State.readWindow_state :
    s.readWindow p 16 = BitVec.ofNat 64 ((s.port p).state.code + if (s.port p).overrun then 256 else 0) :=
  packed_flag _ (PortState.code_lt _) _

theorem State.readWindow_unnamed {sel : BitVec 5} (h : sel = 7 ∨ 16 < sel.toNat) : s.readWindow p sel = 0 := by
  rcases h with rfl | h
  · rfl
  · obtain ⟨n, hn⟩ := Nat.exists_eq_add_of_lt h
    have hn' : sel.toNat = n + 17 := by omega
    simp only [State.readWindow, hn']

end

/-- Settles O6. -/
theorem portsTakeWritesAndResponses : Obligations.PortsTakeWritesAndResponses := by
  intro p s
  refine ⟨fun i hi h => ⟨fun hquiet => ?quiet, fun c hbusy => ?busy⟩, fun v h => ⟨?kind, fun i => ?arg⟩,
    fun st oc sup res => ⟨rfl, fun q hq => ?others, ?answered⟩, rfl, fun i => State.readWindow_arg i, ?status, ?outcome,
    fun i => State.readWindow_res i, ?state, fun sel h => State.readWindow_unnamed h⟩
  case quiet => rw [exec_writeGo hi h, State.writeGo_quiet hquiet]; rfl
  case busy => rw [exec_writeGo hi h, State.writeGo_busy hbusy]; rfl
  case kind => exact congrArg Host.Outcome.next (State.awake_high h)
  case arg =>
    refine congrArg Host.Outcome.next ((State.awake_high h).trans ?_)
    rw [State.modPort_eq, Port.written_arg]
  case others => rw [State.respond_eq, State.port_setPort, if_neg (Ne.symm hq)]
  case answered =>
    rw [State.respond_eq, State.port_setPort_same]
    exact ⟨rfl, rfl, rfl, rfl, rfl, rfl, rfl, resWords_get res⟩
  case status =>
    rw [State.readWindow_status]
    cases (s.port p).status with
    | none => rfl
    | some st => cases st <;> rfl
  case outcome => rw [State.readWindow_outcome]; cases (s.port p).outcome <;> rfl
  case state => rw [State.readWindow_state]; cases (s.port p).state <;> rfl

/-! ### Reads (R25, R48, R77, R121, R138, R200) -/

theorem optCode_eq {n : Nat} (o : Option (Fin n)) : optCode o = (o.map Fin.val).getD 255 := by
  cases o <;> rfl

/-- Bytes laid one above the other are the fields at their places. -/
theorem packedBytes_shift (f : Nat → Nat) (n : Nat) :
    ∀ k, packedBytes ((List.range' k n).map f) <<< (8 * k) = packed ((List.range' k n).map fun i => (8 * i, f i)) := by
  induction n with
  | zero => intro k; simp [packedBytes, packed]
  | succ n ih =>
    intro k
    have hrest := ih (k + 1)
    rw [show 8 * (k + 1) = 8 + 8 * k by omega, BitVec.shiftLeft_add] at hrest
    simp only [List.range'_succ, List.map_cons, packedBytes, BitVec.shiftLeft_or_distrib, hrest]
    rfl

theorem packedBytes_range (f : Nat → Nat) (n : Nat) :
    packedBytes ((List.range n).map f) = packed ((List.range n).map fun i => (8 * i, f i)) := by
  rw [List.range_eq_range', ← packedBytes_shift, Nat.mul_zero, BitVec.shiftLeft_zero]

/-- The first n entries of a list as bytes, FFh where there is none (R204). -/
theorem firstBytes {m : Nat} (l : List (Fin m)) (n : Nat) :
    packedBytes ((l.map Fin.val ++ List.replicate n noneCode).take n) =
      packed ((List.range n).map fun i => (8 * i, (l[i]?.map Fin.val).getD 255)) := by
  rw [← packedBytes_range]
  congr 1
  apply List.ext_getElem
  · simp
  · intro i h1 h2
    have hi : i < n := by simpa using h2
    by_cases hl : i < l.length
    · simp [hl]
    · simp [hl, List.getElem_append, noneCode]

theorem State.taskWords_eq (s : State) (t : TaskId) :
    s.taskWords t =
      [ packed [(0, t.val), (8, (s.task t).partition.val), (16, (s.task t).priority.val), (24, (s.task t).cls.code),
          (25, (s.task t).privilege.code), (32, (s.task t).affinity.toNat),
          (40, ((s.location t).1.map Fin.val).getD 255), (48, (s.location t).2),
          (56, ((s.task t).lastPu.map Fin.val).getD 255)],
        packed [(0, (s.task t).state.code), (8, ((s.task t).waitChannel.map Fin.val).getD 255),
          (16, waitResultCode (s.task t).waitResult), (24, stopReasonCode (s.task t).stopReason),
          (32, ((s.task t).wakeTick.map BitVec.toNat).getD 0)],
        (s.task t).entryWord, (s.task t).resumeWord,
        packed [(0, (s.task t).budgetLimit.toNat), (16, (s.task t).budgetWarn.toNat), (32, (s.task t).budgetUsed.toNat),
          (48, (s.task t).budgetAction.code), (50, if (s.task t).warnFlag then 1 else 0),
          (56, (s.task t).overrunCount.toNat)],
        packed [(0, (s.task t).dispatchCount.toNat), (16, if (s.task t).wakeTick.isSome then 1 else 0)] ] := by
  have hwake : ((s.task t).wakeTick.getD 0).toNat = ((s.task t).wakeTick.map BitVec.toNat).getD 0 := by
    cases (s.task t).wakeTick <;> rfl
  simp only [State.taskWords, optCode_eq, hwake, flagCode]

theorem State.partitionWords_eq (s : State) (k : Partition) :
    s.partitionWords k =
      [ low k.val, low (if (s.part k).halted.isSome then 1 else 0),
        low (match (s.part k).halted with
          | none => 0
          | some .command => 1
          | some (.budget _) => 2),
        low (match (s.part k).halted with
          | some (.budget t) => t.val
          | _ => 255),
        low (if (s.part k).purge.isSome then 1 else 0),
        packed [(0, (s.part k).readyCount), (32, (s.part k).memberCount)] ] := by
  unfold State.partitionWords
  dsimp only
  rcases (s.part k).halted with _ | _ | t <;> rfl

theorem State.channelWords_eq (s : State) (ch : ChannelId) :
    s.channelWords ch =
      [ packed [(0, ch.val), (8, if ch.val < 16 then 0 else 1), (9, (s.channel ch).mode.code),
          (10, (s.channel ch).edge.code), (12, if (s.channel ch).masked then 1 else 0),
          (13, (s.channel ch).disposition.code)],
        packed [(0, (s.channel ch).pendingCount.toNat), (8, if (s.channel ch).saturated then 1 else 0)],
        low (s.channel ch).postRights.toNat, low (s.channel ch).arrivalCount.toNat, low (s.channel ch).waiters.length,
        packed (all8.map fun n => (8 * n.val, ((s.channel ch).waiters[n.val]?.map Fin.val).getD 255)) ] := by
  simp only [State.channelWords, firstBytes, flagCode]
  rfl

theorem State.statusWords_eq (s : State) :
    s.statusWords =
      [ packed [(0, 0x5108), (16, 3), (24, s.frame.state.code), (32, s.frame.active.code), (40, s.frame.windowIndex.val),
          (48, s.frame.countdown.toNat), (56, s.frame.earlySync.toNat)],
        packed [(0, s.frame.tickCounter.toNat), (32, s.frame.ticksRemaining.toNat), (48, s.frame.gapTicks.toNat)],
        packed [(0, s.conds.word.toNat), (32, s.conds.enable.toNat)],
        packed (all8.map fun q => (8 * q.val, (s.engine q).st.code)),
        packed [(0, s.violation.count.toNat), (8, (s.violation.lastPu.map Fin.val).getD 255),
          (16, (s.violation.lastTask.map Fin.val).getD 255), (32, s.frame.frameCounter.toNat)],
        low s.violation.lastKind.toNat ] := by
  have hbytes : packedBytes (all8.map fun q => (s.engine q).st.code) =
      packed (all8.map fun q => (8 * q.val, (s.engine q).st.code)) :=
    packedBytes_range (fun i => (s.engine (Fin.ofNat 8 i)).st.code) 8
  simp only [State.statusWords, optCode_eq, hbytes]
  rfl

theorem Engine.shownRemaining_eq (e : Engine) :
    e.shownRemaining = match e.st with
      | .switching sw => sw.remaining.toNat
      | _ => 0 := by
  unfold Engine.shownRemaining Engine.timeLeft
  cases e.st <;> rfl

theorem State.puWords_eq (s : State) (q : Pu) :
    s.puWords q =
      [ low q.val,
        packed [(0, (s.engine q).st.code), (8, switchReasonCode (s.engine q).switchReason),
          (16, destCode (s.engine q).pendingDest),
          (24, stopReasonCode ((s.engine q).pendingDest.bind Dest.stopReason)), (32, s.assignmentCode q)],
        packed [(0, ((s.engine q).runningTask.map Fin.val).getD 255), (8, ((s.engine q).claimedTask.map Fin.val).getD 255)],
        packed (([0, 1, 2, 3] : List Nat).map fun n => (8 * n, ((s.engine q).stack.reverse[n]?.map Fin.val).getD 255)),
        packed [(0, (s.engine q).stack.length), (8, (s.engine q).occupancy), (16, (s.urgentQueue q).length)],
        packed [(0, (s.engine q).faultCount.toNat), (8, (s.engine q).deferralCount.toNat),
          (16, match (s.engine q).st with
            | .switching sw => sw.remaining.toNat
            | _ => 0)] ] := by
  simp only [State.puWords, optCode_eq, firstBytes, Engine.shownRemaining_eq]
  rfl

/-! ### The location of a task (R7) -/

section
variable {s : State} {t : TaskId} {q : Pu}

theorem RunsOn.puRunning (h : RunsOn s t q) : s.puRunning t = some q :=
  all8_find_only (by simp [h.here]) fun r hr => h.only r (by simpa using hr)

theorem ClaimedOn.puClaiming (h : ClaimedOn s t q) : s.puClaiming t = some q :=
  all8_find_only (by simp [h.here]) fun r hr => h.only r (by simpa using hr)

theorem StackedOn.puStacking (h : StackedOn s t q) : s.puStacking t = some q :=
  all8_find_only (by simp [h.here]) fun r hr => h.only r (by simpa using hr)

theorem depthIn_append {above below : List TaskId} (h : t ∉ above) :
    depthIn t (above ++ t :: below) = below.length + 1 := by
  induction above with
  | nil => simp [depthIn]
  | cons y ys ih =>
    obtain ⟨hy, hys⟩ := not_or.mp (mt List.mem_cons.mpr h)
    simp [depthIn, Ne.symm hy, ih hys]

theorem State.location_elsewhere (hr : (s.task t).state ≠ .running) (hc : (s.task t).state ≠ .claimed)
    (hd : (s.task t).state ≠ .displaced) : s.location t = (none, 0) := by
  unfold State.location
  split
  · next h => exact absurd h hr
  · next h => exact absurd h hc
  · next h => exact absurd h hd
  · rfl

end

theorem answers_words {i : Instr} {s : State} {p : Pu} {w w' : List Word} (h : exec i s = .next (s.answer p w)) (e : w = w') :
    exec i s = .next (s.answer p w') := e ▸ h

/-- Settles O17: each read performs `answer` with the words of its record, which `…Words_eq` lays out. -/
theorem readsChangeOnlyTheirPort : Obligations.ReadsChangeOnlyTheirPort := by
  refine ⟨fun p c s => ⟨fun t hc ht => ?task, fun t hc hrun => ?self, fun k hc hk hscope => ?partition,
    fun ch hc hch => ?channel,
    fun hc => ?status, fun q hc hq => ?pu⟩, fun s t => ⟨fun q hst h => ?running, fun q hst h => ?claimed,
    fun q above below hst h hstack hnot => ?displaced, State.location_elsewhere⟩, ?codes⟩
  case task =>
    exact answers_words (hc.performs (taskArgs_some ht.named) (State.taskRefusal_none ht.scope rfl)) (s.taskWords_eq t)
  case self => exact answers_words (hc.selfPerforms hrun rfl) (s.taskWords_eq t)
  case partition => exact answers_words (hc.performs (asFin_some k hk) (if_pos hscope)) (s.partitionWords_eq k)
  case channel => exact answers_words (hc.performs (asFin_some ch hch) rfl) (s.channelWords_eq ch)
  case status => exact answers_words (exec_readStatus hc) (s.statusWords_eq)
  case pu => exact answers_words (exec_readPu hc hq) (s.puWords_eq q)
  case running => simp only [State.location, hst, h.puRunning]
  case claimed => simp only [State.location, hst, h.puClaiming]
  case displaced => simp only [State.location, hst, h.puStacking, hstack, depthIn_append hnot]
  case codes =>
    exact ⟨rfl, rfl, rfl, rfl, rfl, rfl, rfl, fun _ _ => rfl, rfl, rfl, fun _ => rfl, fun _ => rfl, rfl, rfl, rfl, rfl⟩

/-! ### READ_PLAN (R154) -/

theorem bankOf_code {id : BankId} {v : Nat} (h : v = id.code) : bankOf v = some id := by
  subst h
  cases id <;> rfl

theorem readPlanArgs_some {c : Captured} {id : BankId} {i : WindowIndex} (hid : (c.arg 0).toNat = id.code)
    (hi : (c.arg 1).toNat = i.val) : readPlanArgs c = some (id, i) := by
  simp [readPlanArgs, bankOf_code hid, asFin_some i hi]

theorem FrameUnit.bank_eq (f : FrameUnit) (id : BankId) : f.bank id = if id = .a then f.bankA else f.bankB := by
  cases id <;> rfl

/-- Settles O18. -/
theorem readPlanShowsTheWindow : Obligations.ReadPlanShowsTheWindow := by
  refine fun p c s hc => ⟨fun hcls => exec_protectRefused rfl hc hcls, fun hcls hout => ?range, fun id i hcls hid hi => ?shown⟩
  case range => exact exec_rangeRefused rfl hc hcls (by simpa [outOfRange] using hout)
  case shown =>
    have hplan := Issued.performs (args := readPlanArgs) (refusal := fun _ _ => none)
      (perform := fun _ a => s.answer p (s.frame.planWords a.1 a.2)) ⟨hc, hcls⟩ (readPlanArgs_some hid hi) rfl
    refine hplan.trans ?_
    simp only [FrameUnit.planWords, flagCode, FrameUnit.bank_eq, decide_eq_true_eq]

end Sys2Proof.Machine
end

section
/-!
PROOFS. Tasks (O10 to O16): the queues, CREATE, START and RESUME, and what SUSPEND, RETIRE, SET_PRIORITY and SET_AFFINITY do
by the state of their task.
-/

namespace Sys2Proof.Machine

/-! ### Entering and leaving a queue (R31 to R33, R84, R85) -/

section
variable {s : State} {t : TaskId}

theorem State.enterQueue_normal (h : (s.task t).cls = .normal) (e : QueueEnd) :
    s.enterQueue t e = s.setReadyQueue (s.task t).partition (s.task t).priority
      (match e with
        | .head => t :: s.readyQueue (s.task t).partition (s.task t).priority
        | .tail => s.readyQueue (s.task t).partition (s.task t).priority ++ [t]) := by
  cases e <;> simp only [State.enterQueue, h]

theorem State.enterQueue_handler (h : (s.task t).cls = .handler) (e : QueueEnd) :
    s.enterQueue t e = s.setUrgentQueue (s.task t).homePu
      (match e with
        | .head => insertFirst s.urgentKey t (s.urgentQueue (s.task t).homePu)
        | .tail => insertLast s.urgentKey t (s.urgentQueue (s.task t).homePu)) := by
  cases e <;> simp only [State.enterQueue, h]

theorem State.leaveQueue_normal (h : (s.task t).cls = .normal) :
    s.leaveQueue t = s.setReadyQueue (s.task t).partition (s.task t).priority
      (without t (s.readyQueue (s.task t).partition (s.task t).priority)) := by
  simp only [State.leaveQueue, h]

theorem State.leaveQueue_handler (h : (s.task t).cls = .handler) :
    s.leaveQueue t = s.setUrgentQueue (s.task t).homePu (without t (s.urgentQueue (s.task t).homePu)) := by
  simp only [State.leaveQueue, h]

/-- A handler enters its urgent queue first or last of its priority group (R84). -/
theorem State.urgentPlace (s : State) (t : TaskId) (e : QueueEnd) (l : List TaskId) :
    ∃ before after, l = before ++ after ∧
      (match e with
        | .head => insertFirst s.urgentKey t l
        | .tail => insertLast s.urgentKey t l) = before ++ t :: after ∧
      (∀ y ∈ before, match e with
        | .head => (s.task y).priority < (s.task t).priority
        | .tail => (s.task y).priority ≤ (s.task t).priority) ∧
      ∀ y, after.head? = some y → match e with
        | .head => (s.task t).priority ≤ (s.task y).priority
        | .tail => (s.task t).priority < (s.task y).priority := by
  cases e with
  | head => exact insertFirst_split s.urgentKey t l
  | tail => exact insertLast_split s.urgentKey t l

/-- From s to s' no more than the queue that t's record names has changed. -/
def OnlyQueueOf (s : State) (t : TaskId) (s' : State) : Prop :=
  ((s.task t).cls = .normal → s'.urgent = s.urgent ∧
    ∀ k q, (k, q) ≠ ((s.task t).partition, (s.task t).priority) → s'.readyQueue k q = s.readyQueue k q) ∧
  ((s.task t).cls = .handler → s'.ready = s.ready ∧ ∀ p, p ≠ (s.task t).homePu → s'.urgentQueue p = s.urgentQueue p) ∧
  { s' with ready := s.ready, urgent := s.urgent } = s

theorem onlyQueueOf_setReadyQueue (h : (s.task t).cls = .normal) (l : List TaskId) :
    OnlyQueueOf s t (s.setReadyQueue (s.task t).partition (s.task t).priority l) :=
  ⟨fun _ => ⟨rfl, fun k q hkq => by rw [State.readyQueue_setReadyQueue, if_neg (Ne.symm hkq)]⟩,
    fun hh => absurd (h.symm.trans hh) (by decide), rfl⟩

theorem onlyQueueOf_setUrgentQueue (h : (s.task t).cls = .handler) (l : List TaskId) :
    OnlyQueueOf s t (s.setUrgentQueue (s.task t).homePu l) :=
  ⟨fun hn => absurd (h.symm.trans hn) (by decide),
    fun _ => ⟨rfl, fun p hp => by rw [State.urgentQueue_setUrgentQueue, if_neg (Ne.symm hp)]⟩, rfl⟩

theorem enterQueue_onlyQueueOf (e : QueueEnd) : OnlyQueueOf s t (s.enterQueue t e) := by
  cases h : (s.task t).cls with
  | normal => rw [State.enterQueue_normal h]; exact onlyQueueOf_setReadyQueue h _
  | handler => rw [State.enterQueue_handler h]; exact onlyQueueOf_setUrgentQueue h _

theorem leaveQueue_onlyQueueOf : OnlyQueueOf s t (s.leaveQueue t) := by
  cases h : (s.task t).cls with
  | normal => rw [State.leaveQueue_normal h]; exact onlyQueueOf_setReadyQueue h _
  | handler => rw [State.leaveQueue_handler h]; exact onlyQueueOf_setUrgentQueue h _

end

/-- Settles O10: a NORMAL task moves in its ready queue and a handler in its urgent queue; each move writes that queue alone. -/
theorem queueMovesAreAtTheStatedPlace : Obligations.QueueMovesAreAtTheStatedPlace := by
  intro s t
  refine ⟨fun e => ⟨enterQueue_onlyQueueOf e, fun h => ?enterReady, fun h => ?enterUrgent⟩, leaveQueue_onlyQueueOf,
    fun h => ?leaveReady, fun h => ?leaveUrgent⟩
  case enterReady => rw [State.enterQueue_normal h]; exact State.readyQueue_set_same ..
  case enterUrgent =>
    obtain ⟨before, after, hsplit, hplace, hbefore, hafter⟩ := s.urgentPlace t e (s.urgentQueue (s.task t).homePu)
    refine ⟨before, after, hsplit, ?_, hbefore, hafter⟩
    rw [State.enterQueue_handler h, State.urgentQueue_set_same]
    exact hplace
  case leaveReady => rw [State.leaveQueue_normal h]; exact State.readyQueue_set_same ..
  case leaveUrgent => rw [State.leaveQueue_handler h]; exact State.urgentQueue_set_same ..

/-! ### CREATE (R15, R16) -/

section
variable {s : State} {p : Pu} {c : Captured}

theorem privilegeOf_code {v : Nat} {priv : Privilege} (h : v = priv.code) : privilegeOf v = some priv := by
  subst h
  cases priv <;> rfl

theorem createIdOf_task (t : TaskId) {v : Nat} (h : v = t.val) : createIdOf v = some (some t) := by
  have hne : v ≠ 255 := by omega
  rw [createIdOf, if_neg hne, asFin_some t h]
  rfl

theorem classOf_code {v : Nat} {cls : TaskClass} (h : v = cls.code) :
    (if v = 0 then TaskClass.normal else TaskClass.handler) = cls := by
  subst h
  cases cls <;> rfl

theorem createArgs_some {id : Option TaskId} {k : Partition} {q : Priority} {cls : TaskClass} {priv : Privilege}
    (hid : createIdOf (bits (c.arg 0) 0 8) = some id) (hk : bits (c.arg 0) 8 8 = k.val) (hq : bits (c.arg 0) 16 8 = q.val)
    (hcls : bits (c.arg 0) 24 1 = cls.code) (hpriv : bits (c.arg 0) 25 2 = priv.code) (haff : setArg (c.arg 1) ≠ 0)
    (hone : cls = .handler → (all8.filter fun h => (setArg (c.arg 1)).getLsbD h.val).length = 1) :
    createArgs c = some ⟨id, k, q, cls, priv, setArg (c.arg 1), c.arg 2⟩ := by
  have hsingle : ¬ (cls = .handler ∧ isSingle (setArg (c.arg 1)) = false) := fun ⟨hh, hs⟩ =>
    absurd (hs.symm.trans (decide_eq_true (hone hh))) (by decide)
  simp only [createArgs, hid, asFin_some k hk, asFin_some q hq, privilegeOf_code hpriv, classOf_code hcls,
    Option.bind_eq_bind, Option.bind_some, if_neg haff, if_neg hsingle, Option.pure_def]

/-- The lowest-numbered FREE record is the one every lower one of which is not FREE (R15). -/
theorem State.lowestFree_some {t : TaskId} (ht : (s.task t).state = .free) (first : ∀ u, u < t → (s.task u).state ≠ .free) :
    s.lowestFree = some t := by
  cases hf : s.lowestFree with
  | none =>
    have hno := List.find?_eq_none.mp hf t (List.mem_finRange t)
    simp [ht] at hno
  | some u =>
    obtain ⟨hu, before, after, hsplit, hbefore⟩ := List.find?_eq_some_iff_append.mp hf
    have hsorted : (before ++ u :: after).Pairwise (· < ·) := hsplit ▸ List.pairwise_lt_finRange 128
    have hmem : t ∈ before ++ u :: after := hsplit ▸ List.mem_finRange t
    rcases List.mem_append.mp hmem with hb | hmem
    · simpa [ht] using hbefore t hb
    · rcases List.mem_cons.mp hmem with rfl | ha
      · rfl
      · have hlt := (List.pairwise_cons.mp (List.pairwise_append.mp hsorted).2.1).1 t ha
        exact absurd (of_decide_eq_true hu) (first u hlt)

theorem State.createRefusal_none {a : CreateArgs} {t : TaskId} (hallowed : s.createAllowed p a = true)
    (hpurge : (s.part a.partition).purge = none) (hfree : (s.task t).state = .free)
    (hid : a.id = some t ∨ (a.id = none ∧ s.lowestFree = some t)) : s.createRefusal p a = none := by
  rcases hid with hid | ⟨hid, hlow⟩
  · simp [State.createRefusal, hallowed, hpurge, hid, State.createInScope, State.taskInScope, hfree]
  · simp [State.createRefusal, hallowed, hpurge, hid, State.createInScope, hlow]

theorem State.createId_some {a : CreateArgs} {t : TaskId} (hid : a.id = some t ∨ (a.id = none ∧ s.lowestFree = some t)) :
    s.createId a = some t := by
  rcases hid with hid | ⟨hid, hlow⟩
  · simp only [State.createId, hid]
  · simp only [State.createId, hid, hlow]

theorem State.createCommand_eq {a : CreateArgs} {t : TaskId} (h : s.createId a = some t) :
    s.createCommand p a = (s.setTask t a.record).answer p [low t.val, low 1] := by
  simp only [State.createCommand, h, State.idStateWords, State.task_setTask_same]
  rfl

theorem State.createAllowed_true {a : CreateArgs}
    (h : s.effectivePrivilege p = some .supervisor ∨ (a.cls = .normal ∧ a.privilege = .user ∧ s.inScope p a.partition = true)) :
    s.createAllowed p a = true := by
  rcases h with h | ⟨hcls, hpriv, hscope⟩
  · simp [State.createAllowed, h]
  · simp [State.createAllowed, hcls, hpriv, hscope]

end

/-- Settles O11. -/
theorem createFillsARecord : Obligations.CreateFillsARecord := by
  intro p c s t k q cls priv affinity hc hk hq hcls hpriv haff hone hallowed hpurge hfree hid
  obtain ⟨id, hidOf, hidT⟩ : ∃ id, createIdOf (bits (c.arg 0) 0 8) = some id ∧
      (id = some t ∨ (id = none ∧ s.lowestFree = some t)) := by
    rcases hid with hid | ⟨hany, first⟩
    · exact ⟨_, createIdOf_task t hid, .inl rfl⟩
    · exact ⟨none, if_pos hany, .inr ⟨rfl, State.lowestFree_some hfree first⟩⟩
  have hargs := createArgs_some hidOf hk hq hcls hpriv haff hone
  refine (hc.performs hargs (State.createRefusal_none (State.createAllowed_true hallowed) hpurge hfree hidT)).trans ?_
  rw [State.createCommand_eq (State.createId_some hidT)]
  rfl

/-! ### START and RESUME (R17, R20) -/

section
variable {s : State} {p : Pu} {c : Captured} {t : TaskId}

/-- A task made READY, as one write of its record before it enters its queue. -/
theorem State.makeReady_eq (s : State) (t : TaskId) (e : QueueEnd) :
    s.makeReady t e = (s.setTask t { s.task t with state := .ready, stopReason := none }).enterQueue t e := rfl

theorem State.readyRequest_eq (s : State) (t : TaskId) :
    s.readyRequest t = match (s.task t).cls with
      | .normal => .place t
      | .handler => .urgent (s.task t).homePu .arrival := rfl

theorem State.readyTail_eq (s : State) (t : TaskId) (r : TaskRecord)
    (hr : r = { s.task t with state := .ready, stopReason := none }) :
    s.readyTail t = ((s.setTask t r).enterQueue t .tail).request
      [match r.cls with
        | .normal => .place t
        | .handler => .urgent r.homePu .arrival] := by
  subst hr
  simp only [State.readyTail, State.readyRequest_eq, State.makeReady_eq, State.enterQueue_task, State.task_setTask_same]

theorem State.readyTail_state (s : State) (t : TaskId) : ((s.readyTail t).task t).state = .ready := by
  simp [State.readyTail, State.makeReady_state]

/-- A task made READY at the tail, with its request and its answer (R17, R20, R202). -/
theorem State.readyTail_answer (s : State) (t : TaskId) :
    (s.readyTail t).answer p ((s.readyTail t).idStateWords t) = (s.readyTail t).answer p [low t.val, low 2] := by
  rw [State.idStateWords, State.readyTail_state]
  rfl

theorem State.purging_false (h : (s.part (s.task t).partition).purge = none) : s.purging t = false := by
  simp [State.purging, h]

end

/-- Settles O12. -/
theorem startAndResumeQueueTheTask : Obligations.StartAndResumeQueueTheTask := by
  intro p c s t ht hpurge
  refine ⟨fun hc hst => ?start, fun hc hst => ?resume⟩
  case start =>
    refine (hc.performs (taskArgs_some ht.named)
      (State.taskRefusal_none ht.scope (by simp [hst, State.purging_false hpurge]))).trans
      (congrArg Host.Outcome.next ?_)
    refine (State.readyTail_answer _ t).trans ?_
    have once := s.setTask_setTask t { s.task t with resumeWord := (s.task t).entryWord }
      { s.task t with state := .ready, stopReason := none, resumeWord := (s.task t).entryWord } rfl rfl
    rw [State.readyTail_eq _ t
        { s.task t with state := .ready, stopReason := none, resumeWord := (s.task t).entryWord } (by simp),
      State.modTask_eq, once] <;> rfl
  case resume =>
    refine (hc.performs (taskArgs_some ht.named)
      (State.taskRefusal_none ht.scope (by simp [hst, State.purging_false hpurge]))).trans
      (congrArg Host.Outcome.next ?_)
    refine (State.readyTail_answer _ t).trans ?_
    rw [State.readyTail_eq s t _ rfl] <;> rfl

/-! ### Taking a task out of its place (R18, R21) -/

section
variable {s : State} {t : TaskId} {q : Pu} {final : State → State}

theorem State.takeOut_ready (h : (s.task t).state = .ready) : s.takeOut t final = final (s.leaveQueue t) := by
  simp only [State.takeOut, h]

theorem State.takeOut_waiting (h : (s.task t).state = .waiting) :
    s.takeOut t final = final ((s.leaveWaiters t).leaveDelayList t) := by
  simp only [State.takeOut, h]

theorem State.takeOut_still (h : (s.task t).state = .dormant ∨ (s.task t).state = .held ∨ (s.task t).state = .suspended) :
    s.takeOut t final = final s := by
  rcases h with h | h | h <;> simp only [State.takeOut, h]

theorem State.takeOut_displaced (h : (s.task t).state = .displaced) (hq : StackedOn s t q) :
    s.takeOut t final = (final (s.setStack q (without t (s.engine q).stack))).reEvaluate q := by
  simp only [State.takeOut, h, hq.puStacking]

theorem State.takeOut_claimed (h : (s.task t).state = .claimed) (hq : ClaimedOn s t q) :
    s.takeOut t final = (final (s.modSwitch q fun sw => { sw with claimed := none })).newChoice q := by
  simp only [State.takeOut, h, hq.puClaiming]

theorem State.retireTask_takeOut (h : (s.task t).state ≠ .running) : s.retireTask t = s.takeOut t (State.freeTask t) := by
  unfold State.retireTask
  split
  · next hr => exact absurd hr h
  · rfl

theorem State.retireTask_running (h : (s.task t).state = .running) (hq : RunsOn s t q) :
    s.retireTask t = s.askOut q .retire .free := by
  simp only [State.retireTask, h, State.askOutOf, hq.puRunning]

/-- SUSPEND of a task that is not RUNNING and not WAITING leaves its wait result. -/
theorem State.suspendTask_takeOut (h : (s.task t).state ≠ .running) (hw : (s.task t).state ≠ .waiting) :
    s.suspendTask t =
      s.takeOut t (State.modTask t fun r => { r with state := .suspended, stopReason := some .command }) := by
  unfold State.suspendTask
  split
  · next hr => exact absurd hr h
  · simp only [if_neg hw]

theorem State.suspendTask_waiting (h : (s.task t).state = .waiting) :
    s.suspendTask t = ((s.leaveWaiters t).leaveDelayList t).modTask t fun r =>
      { r with state := .suspended, stopReason := some .command, waitResult := some .interrupted } := by
  simp only [State.suspendTask, h]
  rw [State.takeOut_waiting h]
  rfl

theorem State.suspendTask_running (h : (s.task t).state = .running) (hq : RunsOn s t q) :
    s.suspendTask t = s.askOut q .suspend (.suspended .command) := by
  simp only [State.suspendTask, h, State.askOutOf, hq.puRunning]

variable {p : Pu} {c : Captured}

/-- SUSPEND of a task in a state it takes, answered at once unless the task is RUNNING (R18, R19). -/
theorem exec_suspend (hc : Issued s p 3 .manager c) (ht : OnTask s p c t) (hok : (s.task t).state.suspendable = true)
    (hrun : (s.task t).state ≠ .running) {s' : State} (hs : s.suspendTask t = s') :
    exec (.suspend p) s = .next (s'.answer p [low t.val, low (s'.task t).state.code]) := by
  subst hs
  refine (hc.performs (taskArgs_some ht.named) (State.taskRefusal_none ht.scope hok)).trans (congrArg _ ?_)
  simp only [State.suspendCommand, if_neg hrun, State.idStateWords]

end

/-- Settles O13: SUSPEND by the state of its task. -/
theorem suspendTakesTheTaskOut : Obligations.SuspendTakesTheTaskOut := by
  intro p c s t hc ht
  refine ⟨fun h => ?ready, fun h => ?held, fun h => ?waiting, fun q h hq => ?displaced, fun q h hq => ?claimed,
    fun q h hq => ?running⟩
  case waiting => exact exec_suspend hc ht (by rw [h]; rfl) (by rw [h]; decide) (State.suspendTask_waiting h)
  case running =>
    refine (hc.performs (taskArgs_some ht.named) (State.taskRefusal_none ht.scope (by rw [h]; rfl))).trans (congrArg _ ?_)
    simp only [State.suspendCommand, if_pos h, State.idStateWords, State.suspendTask_running h hq]
  all_goals
    refine exec_suspend hc ht (by rw [h]; rfl) (by rw [h]; decide) ?_
    rw [State.suspendTask_takeOut (by rw [h]; decide) (by rw [h]; decide)]
  case ready => exact State.takeOut_ready h
  case held => exact State.takeOut_still (.inr (.inl h))
  case displaced => exact State.takeOut_displaced h hq
  case claimed => exact State.takeOut_claimed h hq

/-! ### RETIRE (R21, R22) -/

section
variable {s : State} {t : TaskId} {p : Pu} {c : Captured} {k : Partition}

theorem State.settlePurge_none (h : (s.part k).purge = none) : s.settlePurge k = s := by
  simp only [State.settlePurge, h]

theorem State.retireTask_purge (s : State) (t : TaskId) (k : Partition) :
    ((s.retireTask t).part k).purge = (s.part k).purge := ((Moves.refl s).retireTask t).purge k

theorem exec_retire (hc : Issued s p 5 .manager c) (ht : OnTask s p c t) (hst : (s.task t).state ≠ .free) :
    exec (.retire p) s = .next (s.retireCommand p t) :=
  hc.performs (taskArgs_some ht.named) (State.taskRefusal_none ht.scope (by simp [hst]))

/-- The state RETIRE leaves before it answers: where the partition is not purging there is nothing to settle. -/
theorem State.retired_eq {s' : State} (hnone : (s.part (s.task t).partition).purge = none → s' = s.retireTask t)
    (hsome : (s.part (s.task t).partition).purge ≠ none → s' = (s.retireTask t).settlePurge (s.task t).partition) :
    (s.retireTask t).settlePurge (s.task t).partition = s' := by
  by_cases hp : (s.part (s.task t).partition).purge = none
  · rw [hnone hp, State.settlePurge_none ((State.retireTask_purge s t _).trans hp)]
  · exact (hsome hp).symm

end

/-- Settles O14: the effects of retiring by the state of the task, and RETIRE, which settles a purge of its partition. -/
theorem retiringFreesTheRecord : Obligations.RetiringFreesTheRecord := by
  intro s t
  refine ⟨fun h => ?still, fun h => ?ready, fun h => ?waiting, fun q h hq => ?displaced, fun q h hq => ?claimed,
    fun q h hq => State.retireTask_running h hq, fun p c hc ht s' hnone hsome => ?command⟩
  case still =>
    rw [State.retireTask_takeOut (by rcases h with h | h | h <;> rw [h] <;> decide), State.takeOut_still h]
    rfl
  case ready => rw [State.retireTask_takeOut (by rw [h]; decide), State.takeOut_ready h]; rfl
  case waiting => rw [State.retireTask_takeOut (by rw [h]; decide), State.takeOut_waiting h]; rfl
  case displaced => rw [State.retireTask_takeOut (by rw [h]; decide), State.takeOut_displaced h hq]; rfl
  case claimed => rw [State.retireTask_takeOut (by rw [h]; decide), State.takeOut_claimed h hq]; rfl
  case command =>
    have hs := State.retired_eq hnone hsome
    refine ⟨fun hfree hrun => ?_, fun hrun => ?_⟩
    · rw [exec_retire hc ht hfree, State.retireCommand, if_neg hrun, hs]
      rfl
    · rw [exec_retire hc ht (by rw [hrun]; decide), State.retireCommand, if_pos hrun, hs]
      rfl

/-! ### SET_PRIORITY (R23) -/

section
variable {s : State} {t : TaskId} {q : Priority} {p r : Pu} {c : Captured}

theorem State.changePriority_readyNormal (h : (s.task t).state = .ready) (hcls : (s.task t).cls = .normal) :
    s.changePriority t q =
      ((((s.leaveQueue t).modTask t fun r => { r with priority := q }).enterQueue t .tail).voidPlace t).request [.place t] := by
  simp only [State.changePriority, h, State.isHandler_false_iff.mpr hcls]
  rfl

theorem State.changePriority_readyHandler (h : (s.task t).state = .ready) (hcls : (s.task t).cls = .handler) :
    s.changePriority t q =
      (((s.leaveQueue t).modTask t fun r => { r with priority := q }).enterQueue t .tail).reEvaluate (s.task t).homePu := by
  simp only [State.changePriority, h, State.isHandler_iff.mpr hcls]
  rfl

theorem State.changePriority_waiting {ch : ChannelId} (h : (s.task t).state = .waiting)
    (hch : (s.task t).waitChannel = some ch) :
    s.changePriority t q = ((s.leaveWaiters t).modTask t fun r => { r with priority := q }).enterWaiters ch t := by
  simp only [State.changePriority, h, hch]

/-- A task that stands in no ordered place, and is not RUNNING, takes the value alone. -/
theorem State.changePriority_alone
    (h : ((s.task t).state = .waiting ∧ (s.task t).waitChannel = none) ∨ (s.task t).state = .dormant ∨
      (s.task t).state = .held ∨ (s.task t).state = .suspended ∨ (s.task t).state = .displaced ∨ (s.task t).state = .claimed) :
    s.changePriority t q = s.modTask t fun r => { r with priority := q } := by
  rcases h with ⟨h, hch⟩ | h | h | h | h | h
  · simp only [State.changePriority, h, hch]
  all_goals simp only [State.changePriority, h]

theorem State.changePriority_runningHandler (h : (s.task t).state = .running) (hr : RunsOn s t r)
    (hst : (s.engine r).st = .running t) (hcls : (s.task t).cls = .handler) :
    s.changePriority t q = (s.modTask t fun r => { r with priority := q }).reEvaluate r := by
  simp only [State.changePriority, h, hr.puRunning, hst, State.isHandler_iff.mpr hcls]
  rfl

theorem State.changePriority_runningNormal (h : (s.task t).state = .running) (hr : RunsOn s t r)
    (hst : (s.engine r).st = .running t) (hcls : (s.task t).cls = .normal) :
    s.changePriority t q =
      match (s.modTask t fun r => { r with priority := q }).pickBelow r .none q.val with
      | some u => ((s.modTask t fun r => { r with priority := q }).beginSwitch r .preempt .readyHead).claimFor r u
      | none => s.modTask t fun r => { r with priority := q } := by
  simp only [State.changePriority, h, hr.puRunning, hst, State.isHandler_false_iff.mpr hcls]
  rfl

theorem State.changePriority_switching {sw : Switch} (h : (s.task t).state = .running) (hr : RunsOn s t r)
    (hst : (s.engine r).st = .switching sw) : s.changePriority t q = s.modTask t fun r => { r with priority := q } := by
  simp only [State.changePriority, h, hr.puRunning, hst]

/-- SET_PRIORITY of a task that is not FREE, in its scope. -/
theorem exec_setPriority (hc : Issued s p 6 .manager c) (ht : OnTask s p c t) (hq : (c.arg 1).toNat = q.val)
    (hst : (s.task t).state ≠ .free) {s' : State} (hs : (if (s.task t).priority = q then s else s.changePriority t q) = s') :
    exec (.setPriority p) s = .next (s'.answer p [low t.val, low (s'.task t).state.code]) := by
  subst hs
  exact hc.performs (priorityArgs_some t q ht.named hq) (State.taskRefusal_none ht.scope (by simp [hst]))

end

/-- Settles O15: SET_PRIORITY by the state of its task. -/
theorem setPriorityMovesTheTask : Obligations.SetPriorityMovesTheTask := by
  intro p c s t q hc ht hq hst
  refine ⟨fun hsame => exec_setPriority hc ht hq hst (if_pos hsame), fun hnew => ?_⟩
  have changed {s' : State} (hs : s.changePriority t q = s') :
      exec (.setPriority p) s = .next (s'.answer p [low t.val, low (s'.task t).state.code]) :=
    exec_setPriority hc ht hq hst ((if_neg hnew).trans hs)
  exact ⟨fun h hcls => changed (State.changePriority_readyNormal h hcls),
    fun h hcls => changed (State.changePriority_readyHandler h hcls),
    fun ch h hch => changed (State.changePriority_waiting h hch),
    fun h hch => changed (State.changePriority_alone (.inl ⟨h, hch⟩)),
    fun h => changed (State.changePriority_alone (.inr h)),
    fun r h hr => ⟨fun hst hcls => changed (State.changePriority_runningHandler h hr hst hcls),
      fun hst hcls => changed (State.changePriority_runningNormal h hr hst hcls),
      fun sw hst => changed (State.changePriority_switching h hr hst)⟩⟩

/-! ### SET_AFFINITY (R24) -/

section
variable {s : State} {t : TaskId} {m : BitVec 8} {p r : Pu} {c : Captured}

theorem State.changeAffinity_alone (hr : (s.task t).state ≠ .ready) (hc : (s.task t).state ≠ .claimed)
    (hrun : (s.task t).state ≠ .running) : s.changeAffinity t m = s.modTask t fun r => { r with affinity := m } := by
  unfold State.changeAffinity
  split
  · next h => exact absurd h hr
  · next h => exact absurd h hc
  · next h => exact absurd h hrun
  · rfl

theorem State.changeAffinity_ready (h : (s.task t).state = .ready) :
    s.changeAffinity t m = (s.modTask t fun r => { r with affinity := m }).request [.place t] := by
  simp only [State.changeAffinity, h]

theorem State.changeAffinity_claimed (h : (s.task t).state = .claimed) (hr : ClaimedOn s t r) :
    s.changeAffinity t m =
      let s1 := s.modTask t fun r => { r with affinity := m }
      if m.getLsbD r.val then s1 else ((s1.returnClaim r).newChoice r).request [.place t] := by
  simp only [State.changeAffinity, h, hr.puClaiming]

theorem State.changeAffinity_running (h : (s.task t).state = .running) (hr : RunsOn s t r) :
    s.changeAffinity t m =
      let s1 := s.modTask t fun r => { r with affinity := m }
      if m.getLsbD r.val then s1 else s1.askOut r .affinity .readyHead := by
  simp only [State.changeAffinity, h, hr.puRunning]

end

/-- Settles O16: SET_AFFINITY by the state of its task. -/
theorem setAffinityMovesTheTask : Obligations.SetAffinityMovesTheTask := by
  intro p c s t hc ht hst hcls hset
  have changed {s' : State} (hs : s.changeAffinity t (setArg (c.arg 1)) = s') :
      exec (.setAffinity p) s = .next (s'.answer p [low t.val, low (s'.task t).state.code]) := by
    subst hs
    exact hc.performs (affinityArgs_some t ht.named hset)
      (State.taskRefusal_none ht.scope (by simp [hst, State.isHandler, hcls]))
  exact ⟨fun hr hcl hrun => changed (State.changeAffinity_alone hr hcl hrun),
    fun h => changed (State.changeAffinity_ready h), fun r h hr => changed (State.changeAffinity_claimed h hr),
    fun r h hr => changed (State.changeAffinity_running h hr)⟩

end Sys2Proof.Machine
end

section
/-!
PROOFS. The Selector (O19 to O21): eligibility, picks and the unwind choice.
-/

namespace Sys2Proof.Machine

/-! ### Eligibility and runnable handlers (R34, R83) -/

section
variable {s : State} {p : Pu} {t : TaskId}

theorem State.underUrgentWork_false_iff :
    s.underUrgentWork p = false ↔
      (s.engine p).stack = [] ∧ (∀ u, (s.engine p).runningTask = some u → (s.task u).cls ≠ .handler) ∧
        ∀ u, (s.engine p).claimedTask = some u → (s.task u).cls ≠ .handler := by
  simp only [State.underUrgentWork, Bool.or_eq_false_iff, State.optHandler_false_iff, Bool.not_eq_false', List.isEmpty_iff]
  tauto

/-- Eligibility for a place request, with the entry it judges (R34, R167). -/
theorem State.eligible_iff {entry : MapEntry} (h : s.placeAssignment p = some entry) :
    s.eligible p t = true ↔
      s.mayRun p t = true ∧ (entry = .part (s.task t).partition ∨ entry = .opened) ∧ s.underUrgentWork p = false := by
  simp [State.eligible, h, State.allowedBy_iff, and_assoc]

theorem State.eligible_none (h : s.placeAssignment p = none) : s.eligible p t = false := by
  simp [State.eligible, h, State.allowedBy]

/-- With no re-evaluation of the PU outstanding, a place request judges the window in force. -/
theorem State.eligible_inForce_iff (h : s.formerEntries p = []) :
    s.eligible p t = true ↔ s.mayRun p t = true ∧ s.mapAllows p t = true ∧ s.underUrgentWork p = false := by
  simp [State.eligible, State.placeAssignment_inForce h, State.mapAllows, and_assoc]

theorem State.mayRun_dispatching (h : s.mayRun p t = true) : s.frame.dispatching = true :=
  FrameUnit.dispatching_iff.mpr (State.mayRun_iff.mp h).2.2.1

theorem State.formerEntries_nil (h : ∀ former, .window p former ∉ s.requests.flatten) : s.formerEntries p = [] :=
  List.eq_nil_iff_forall_not_mem.mpr fun former hf => h former (State.mem_formerEntries.mp hf)

theorem State.runnable_iff {h : TaskId} :
    s.runnable h = true ↔ (s.part (s.task h).partition).halted = none ∧ (s.part (s.task h).partition).purge = none := by
  rw [State.runnable, Bool.not_eq_true', State.blocked_false_iff]

theorem State.firstRunnable_absent (x : Extra) (h : ¬ ((s.engine p).present = true ∧ s.frame.dispatching = true)) :
    s.firstRunnable p x = none := by
  rw [State.firstRunnable, if_neg (by simpa using h)]

theorem State.firstRunnable_present (h1 : (s.engine p).present = true) (h2 : s.frame.dispatching = true) :
    s.firstRunnable p .none = (s.urgentQueue p).find? s.runnable := by
  simp [State.firstRunnable, h1, h2, State.urgentView]

theorem State.firstRunnable_some {x : Extra} (h : s.firstRunnable p x = some t) :
    (s.engine p).present = true ∧ s.frame.dispatching = true := by
  by_contra hno
  rw [State.firstRunnable_absent x hno] at h
  cases h

end

/-- Settles O19. -/
theorem eligibleAndRunnableTasks : Obligations.EligibleAndRunnableTasks := by
  intro s p t
  refine ⟨?pick, fun hnone => ?inForce, fun before former after hsplit first later => ?former, fun hmem => ?noFormer,
    fun h => ?absent, fun h hh => ?first, fun hoff hfault hframe hnone y hy => ?none⟩
  case pick =>
    rw [State.eligibleForPick, Bool.and_eq_true, State.eligibleBase_iff, List.isEmpty_iff]
    simp only [and_assoc]
  case inForce =>
    rw [State.eligible_inForce_iff (State.formerEntries_nil hnone), State.underUrgentWork_false_iff, ← State.mayRun_iff]
    exact and_congr_right fun hrun => and_congr_left fun _ => State.mapAllows_iff (State.mayRun_dispatching hrun)
  case former =>
    rw [State.eligible_iff (State.placeAssignment_oldest hsplit first later), State.underUrgentWork_false_iff, State.mayRun_iff]
  case noFormer => exact State.eligible_none (State.placeAssignment_none (State.mem_formerEntries.mpr hmem))
  case absent =>
    refine State.firstRunnable_absent .none fun ⟨hpresent, hframe⟩ => ?_
    rw [Engine.present_iff] at hpresent
    rw [FrameUnit.dispatching_iff] at hframe
    rcases h with h | h | h | h
    · exact hpresent.1 h
    · exact hpresent.2 h
    · rw [h] at hframe; simp at hframe
    · rw [h] at hframe; simp at hframe
  case first =>
    obtain ⟨hpresent, hframe⟩ := State.firstRunnable_some hh
    rw [State.firstRunnable_present hpresent hframe] at hh
    obtain ⟨hruns, before, after, hsplit, hbefore⟩ := List.find?_eq_some_iff_append.mp hh
    refine ⟨State.runnable_iff.mp hruns, before, after, hsplit, fun y hy hyruns => ?_⟩
    simpa [State.runnable_iff.mpr hyruns] using hbefore y hy
  case none =>
    rw [State.firstRunnable_present (Engine.present_iff.mpr ⟨hoff, hfault⟩) (FrameUnit.dispatching_iff.mpr hframe)] at hnone
    exact fun hruns => List.find?_eq_none.mp hnone y hy (State.runnable_iff.mpr hruns)

/-! ### Picks (R38, R39, R65 (b), R131) -/

theorem State.standsIn_iff {s : State} {t : TaskId} {k : Partition} {q : Priority} (h : (s.task t).cls = .normal) :
    s.standsIn t k q = true ↔ (k, q) = ((s.task t).partition, (s.task t).priority) := by
  simp only [State.standsIn, State.isHandler_false_iff.mpr h, Bool.not_false, Bool.true_and, Bool.and_eq_true,
    decide_eq_true_eq, Prod.mk.injEq]
  exact and_congr eq_comm eq_comm

/-- A NORMAL task counts in the queue its record names, and in no other. -/
theorem State.queueView_extra {s : State} {t : TaskId} (h : (s.task t).cls = .normal) (k : Partition) (q : Priority) :
    s.queueView (.head t) k q =
        (if (k, q) = ((s.task t).partition, (s.task t).priority) then t :: s.readyQueue k q else s.readyQueue k q) ∧
      s.queueView (.tail t) k q =
        (if (k, q) = ((s.task t).partition, (s.task t).priority) then s.readyQueue k q ++ [t] else s.readyQueue k q) := by
  simp only [State.queueView, State.standsIn_iff h, and_self]

/-- Settles O20. -/
theorem pickReturnsTheMostUrgentCandidate : Obligations.PickReturnsTheMostUrgentCandidate := by
  refine fun s p x bound => ⟨fun t h => State.pickBelow_some h, State.pickBelow_none_iff.mp, fun k q => rfl, fun t h => ?_⟩
  obtain ⟨hhead, htail⟩ := State.queueView_extra h (s.task t).partition (s.task t).priority
  refine ⟨hhead.trans (if_pos rfl), htail.trans (if_pos rfl), fun k q hkq => ?_⟩
  obtain ⟨hhead', htail'⟩ := State.queueView_extra h k q
  exact ⟨hhead'.trans (if_neg hkq), htail'.trans (if_neg hkq)⟩

/-! ### The unwind choice (R94 to R96) -/

section
variable {s : State} {p : Pu} {u : Option TaskId} {x : Extra} {back rest : List TaskId} {T : TaskId}

theorem State.goesAhead_iff :
    s.goesAhead u T = true ↔
      ∃ h, u = some h ∧ ((s.task T).cls = .normal ∨ (s.task h).priority < (s.task T).priority) := by
  cases u with
  | none => simp [State.goesAhead]
  | some h => simp [State.goesAhead, State.isHandler_false_iff, State.prio]

theorem State.takenUp_iff :
    s.takenUp p T = true ↔
      ((s.task T).cls = .handler ∧ (s.part (s.task T).partition).halted = none ∧
        (s.part (s.task T).partition).purge = none ∧ (s.frame.state = .framing ∨ s.frame.state = .gap)) ∨
      ((s.task T).cls = .normal ∧ s.eligibleBase p T = true ∧ s.pickBelow p .none (s.task T).priority.val = none) := by
  unfold State.takenUp
  cases hcls : (s.task T).cls with
  | normal => simp [State.isHandler_false_iff.mpr hcls, State.prio]
  | handler => simp [State.isHandler_iff.mpr hcls, State.blocked_false_iff, FrameUnit.dispatching_iff, and_assoc]

theorem unwindStack_ahead (h : s.goesAhead u T = true) : unwindStack p u x (T :: rest) s back = ⟨s, u, back, false⟩ := by
  simp only [unwindStack, h, if_true]

theorem unwindStack_takenUp (h : s.goesAhead u T = false) (hup : (s.setStack p rest).takenUp p T = true) :
    unwindStack p u x (T :: rest) s back = ⟨s.setStack p rest, some T, back, false⟩ := by
  rw [unwindStack, if_neg (by rw [h]; decide), if_pos hup]

theorem unwindStack_returned (h : s.goesAhead u T = false) (hup : (s.setStack p rest).takenUp p T = false) :
    unwindStack p u x (T :: rest) s back =
      unwindStack p u x rest ((s.setStack p rest).makeReady T .head) (back ++ [T]) := by
  rw [unwindStack, if_neg (by rw [h]; decide), if_neg (by rw [hup]; decide)]

/-- The stack is no part of what `takenUp` reads of a handler, and the task's record is none of what popping it changes. -/
theorem State.takenUp_popped_iff :
    (s.setStack p rest).takenUp p T = true ↔
      ((s.task T).cls = .handler ∧ (s.part (s.task T).partition).halted = none ∧
        (s.part (s.task T).partition).purge = none ∧ (s.frame.state = .framing ∨ s.frame.state = .gap)) ∨
      ((s.task T).cls = .normal ∧ (s.setStack p rest).eligibleBase p T = true ∧
        (s.setStack p rest).pickBelow p .none (s.task T).priority.val = none) := State.takenUp_iff

end

section
variable {s : State} {p : Pu} {x : Extra} {T : TaskId}

theorem State.unwind_ahead (h : s.goesAhead (s.firstRunnable p x) T = true) :
    s.unwind p (some T) x = ⟨s, s.firstRunnable p x, [], !s.isHandler T⟩ := by
  simp only [State.unwind, h, if_true]

theorem State.unwind_takenUp (h : s.goesAhead (s.firstRunnable p x) T = false) (hup : s.takenUp p T = true) :
    s.unwind p (some T) x = ⟨s, some T, [], false⟩ := by
  simp [State.unwind, h, hup]

theorem State.unwind_passed (h : s.goesAhead (s.firstRunnable p x) T = false) (hup : s.takenUp p T = false) :
    s.unwind p (some T) x =
      { unwindStack p (s.firstRunnable p x) x (s.engine p).stack s [] with passedStanding := true } := by
  simp [State.unwind, h, hup]

end

/-- Settles O21: `goesAhead` and `takenUp` are the two tests of R94 on each entry, and of R96 on the standing task. -/
theorem unwindTriesUrgentThenStackThenPick : Obligations.UnwindTriesUrgentThenStackThenPick := by
  intro s p u x back
  refine ⟨fun h => rfl, rfl, fun T rest => ⟨fun hahead => ?ahead, fun hahead hup => ?up, fun hahead hup => ?returned⟩, rfl,
    fun T => ⟨fun hcls => ⟨fun h hf => ?normalAhead, fun hf hup => ?normalUp, fun hf hup => ?normalPassed⟩,
      fun hcls => ⟨fun hmore => ?handlerAhead, fun hmore hblocked hframe => ?handlerUp, fun hmore hno => ?handlerPassed⟩⟩⟩
  case ahead => exact unwindStack_ahead (State.goesAhead_iff.mpr hahead)
  case up =>
    exact unwindStack_takenUp (Bool.eq_false_iff.mpr fun h => hahead (State.goesAhead_iff.mp h))
      (State.takenUp_popped_iff.mpr hup)
  case returned =>
    exact unwindStack_returned (Bool.eq_false_iff.mpr fun h => hahead (State.goesAhead_iff.mp h))
      (Bool.eq_false_iff.mpr fun h => hup (State.takenUp_popped_iff.mp h))
  case normalAhead =>
    have hahead : s.goesAhead (s.firstRunnable p x) T = true := State.goesAhead_iff.mpr ⟨h, hf, .inl hcls⟩
    rw [State.unwind_ahead hahead, hf, State.isHandler_false_iff.mpr hcls]
    rfl
  case normalUp =>
    refine State.unwind_takenUp (by rw [hf]; rfl) (State.takenUp_iff.mpr (.inr ⟨hcls, hup⟩))
  case normalPassed =>
    refine State.unwind_passed (by rw [hf]; rfl) (Bool.eq_false_iff.mpr fun h => ?_)
    rcases State.takenUp_iff.mp h with ⟨hh, -⟩ | ⟨-, h⟩
    · exact absurd (hcls.symm.trans hh) (by decide)
    · exact hup h
  case handlerAhead =>
    obtain ⟨h, hf, hlt⟩ := hmore
    have hahead : s.goesAhead (s.firstRunnable p x) T = true := State.goesAhead_iff.mpr ⟨h, hf, .inr hlt⟩
    rw [State.unwind_ahead hahead, State.isHandler_iff.mpr hcls]
    rfl
  all_goals
    have hahead : s.goesAhead (s.firstRunnable p x) T = false := Bool.eq_false_iff.mpr fun h => by
      obtain ⟨f, hf, hn | hlt⟩ := State.goesAhead_iff.mp h
      · exact absurd (hcls.symm.trans hn) (by decide)
      · exact hmore ⟨f, hf, hlt⟩
  case handlerUp =>
    obtain ⟨hhalted, hpurge⟩ := not_or.mp hblocked
    exact State.unwind_takenUp hahead
      (State.takenUp_iff.mpr (.inl ⟨hcls, not_not.mp hhalted, not_not.mp hpurge, hframe⟩))
  case handlerPassed =>
    refine State.unwind_passed hahead (Bool.eq_false_iff.mpr fun h => ?_)
    rcases State.takenUp_iff.mp h with ⟨-, hhalted, hpurge, hframe⟩ | ⟨hn, -⟩
    · rcases hno with (hno | hno) | hno | hno
      · exact hno hhalted
      · exact hno hpurge
      · rw [hno] at hframe; simp at hframe
      · rw [hno] at hframe; simp at hframe
    · exact absurd (hcls.symm.trans hn) (by decide)

end Sys2Proof.Machine
end

section
/-!
PROOFS. The Selector (O22 to O24): claims, the place request and the urgent arrival; before them, what an engine does when it
enters SWITCHING, and how an outstanding request is taken.
-/

namespace Sys2Proof.Machine

/-! ### Entering and changing a switch -/

section
variable {s : State} {p : Pu} {t : TaskId} {sw : Switch}

theorem State.modSwitch_switching (h : (s.engine p).st = .switching sw) (f : Switch → Switch) :
    s.modSwitch p f = s.setEngine p { s.engine p with st := .switching (f sw) } := by
  rw [State.modSwitch, State.modEngine_eq, h]

theorem State.beginSwitch_idle (h : (s.engine p).st = .idle) (why : SwitchReason) (d : Dest) :
    s.beginSwitch p why d = s.setEngine p
      { s.engine p with
        st := .switching ⟨why, none, none, s.frame.handoverLimit, s.frame.handoverLimit⟩
        swreqRises := (s.engine p).swreqRises + 1 } := by
  simp only [State.beginSwitch, State.modEngine_eq, h]
  rfl

theorem State.beginSwitch_running (h : (s.engine p).st = .running t) (why : SwitchReason) (d : Dest) :
    s.beginSwitch p why d = s.setEngine p
      { s.engine p with
        st := .switching ⟨why, some ⟨t, d⟩, none, s.frame.handoverLimit, s.frame.handoverLimit⟩
        swreqRises := (s.engine p).swreqRises + 1 } := by
  simp only [State.beginSwitch, State.modEngine_eq, h]
  rfl

theorem State.beginSwitch_switching (h : (s.engine p).st = .switching sw) (why : SwitchReason) (d : Dest) :
    s.beginSwitch p why d = s := by
  simp only [State.beginSwitch, State.modEngine_eq, h, State.setEngine_same]

theorem Engine.runningTask_running {e : Engine} (h : e.st = .running t) : e.runningTask = some t := by
  simp only [Engine.runningTask, h]

theorem Engine.runningTask_switching {e : Engine} (h : e.st = .switching sw) :
    e.runningTask = sw.outgoing.map Outgoing.task := by
  simp only [Engine.runningTask, h]

theorem Engine.claimedTask_switching {e : Engine} (h : e.st = .switching sw) : e.claimedTask = sw.claimed := by
  simp only [Engine.claimedTask, h]

theorem Engine.pendingDest_switching {e : Engine} (h : e.st = .switching sw) :
    e.pendingDest = sw.outgoing.map Outgoing.dest := by
  simp only [Engine.pendingDest, h]

theorem State.readyRequest_normal (h : (s.task t).cls = .normal) : s.readyRequest t = .place t := by
  simp only [State.readyRequest, h]

theorem State.readyRequest_handler (h : (s.task t).cls = .handler) :
    s.readyRequest t = .urgent (s.task t).homePu .arrival := by
  simp only [State.readyRequest, h]

/-- A request that is outstanding and next in its group is taken while RESET# is high. -/
theorem NextRequest.takes {want : Request → Bool} {nth : Nat} {r : Request} {rest : List (List Request)}
    (h : NextRequest s want nth r rest) (act : Request → State → State) :
    s.awake (State.takeRequest want nth act) = act r { s with requests := rest } := by
  rw [State.awake_high h.1, State.takeRequest_some h.2]

end

/-! ### Claims (R53, R64, R96) -/

section
variable {s : State} {p : Pu} {t u : TaskId} {sw : Switch}

theorem State.claimFor_eq (h : (s.engine p).st = .switching sw) (t : TaskId) :
    s.claimFor p t = ((s.leaveQueue t).setTask t { s.task t with state := .claimed }).setEngine p
      { s.engine p with st := .switching { sw with claimed := some t } } := by
  unfold State.claimFor
  rw [State.modSwitch_switching (sw := sw) (by simpa using h)]
  simp

theorem State.returnClaim_eq (h : (s.engine p).st = .switching sw) (hc : sw.claimed = some t) :
    s.returnClaim p =
      ((s.setEngine p { s.engine p with st := .switching { sw with claimed := none } }).setTask t
        { s.task t with state := .ready, stopReason := none }).enterQueue t .head := by
  simp only [State.returnClaim, Engine.claimedTask_switching h, hc]
  rw [State.modSwitch_switching h, State.makeReady_eq, State.setEngine_task_read]

theorem State.returnClaim_empty (h : (s.engine p).claimedTask = none) : s.returnClaim p = s := by
  simp only [State.returnClaim, h]

theorem State.retarget_eq (h : (s.engine p).claimedTask = some t) (u : TaskId) :
    s.retarget p u = ((s.returnClaim p).claimFor p u).request [s.readyRequest t] := by
  simp only [State.retarget, h]

end

/-- Settles O22. -/
theorem claimsAreTakenFromAndReturnedToQueues : Obligations.ClaimsAreTakenFromAndReturnedToQueues := by
  intro s p sw h
  refine ⟨State.claimFor_eq h, fun t hc => State.returnClaim_eq h hc, fun t u hc => ?_, ?_⟩
  · exact State.retarget_eq (by rw [Engine.claimedTask_switching h, hc]) u
  · rw [State.emptyStack, State.setStack_eq]

/-! ### The place request (R35, R36) -/

section
variable {s : State} {q : Pu} {t r u : TaskId} {n : Nat}

theorem Engine.freeForClaim_iff {e : Engine} :
    e.freeForClaim = true ↔ e.st = .idle ∨ ∃ sw, e.st = .switching sw ∧ sw.claimed = none := by
  unfold Engine.freeForClaim
  cases e.st <;> simp

/-- PU q can take task t by a switch that preempts its running task r (R36 (b)). -/
def State.Preempts (s : State) (t : TaskId) (q : Pu) (r : TaskId) : Prop :=
  s.eligible q t = true ∧ (s.engine q).st = .running r ∧ (s.task t).priority < (s.task r).priority

/-- PU q can take task t in place of its NORMAL claim u (R36 (c)). -/
def State.Retargets (s : State) (t : TaskId) (q : Pu) (u : TaskId) : Prop :=
  s.eligible q t = true ∧ (s.engine q).claimedTask = some u ∧ (s.task u).cls = .normal ∧
    (s.task t).priority < (s.task u).priority

theorem State.preemptKey_iff :
    s.preemptKey t q = some n ↔ ∃ r, s.Preempts t q r ∧ (s.task r).priority.val = n := by
  unfold State.preemptKey State.Preempts
  cases (s.engine q).st <;> simp [State.prio, and_assoc]

theorem State.retargetKey_iff :
    s.retargetKey t q = some n ↔ ∃ u, s.Retargets t q u ∧ (s.task u).priority.val = n := by
  unfold State.retargetKey State.Retargets
  cases (s.engine q).claimedTask <;> simp [State.prio, State.isHandler_false_iff, and_assoc]

/-- The PU of the least urgent candidate task, the lowest-numbered of those that tie, is the one found. -/
theorem leastUrgentPu_of_least {key : Pu → Option Nat} {cand : Pu → TaskId → Prop}
    (hkey : ∀ q n, key q = some n ↔ ∃ r, cand q r ∧ (s.task r).priority.val = n) (hq : cand q r)
    (least : ∀ q' r', cand q' r' → (s.task r').priority < (s.task r).priority ∨
      ((s.task r').priority = (s.task r).priority ∧ q ≤ q')) : leastUrgentPu key all8 = some q := by
  refine leastUrgentPu_all8 key q (s.task r).priority.val ((hkey q _).mpr ⟨r, hq, rfl⟩) fun q' m hm => ?_
  obtain ⟨r', hr', rfl⟩ := (hkey q' m).mp hm
  exact (least q' r' hr').imp id (And.imp_left (congrArg Fin.val))

theorem leastUrgentPu_of_no_candidate {key : Pu → Option Nat} {cand : Pu → TaskId → Prop}
    (hkey : ∀ q n, key q = some n ↔ ∃ r, cand q r ∧ (s.task r).priority.val = n) (none : ∀ q r, ¬ cand q r) :
    leastUrgentPu key all8 = Option.none :=
  (leastUrgentPu_none key all8).mpr fun q _ => Option.eq_none_iff_forall_ne_some.mpr fun n hn => by
    obtain ⟨r, hr, -⟩ := (hkey q n).mp hn
    exact none q r hr

theorem State.place_unqueued (h : (s.task t).state ≠ .ready ∨ (s.task t).cls = .handler) : s.place t = s := by
  rw [State.place, if_neg]
  rintro ⟨hst, hcls⟩
  rcases h with h | h
  · exact h hst
  · exact absurd ((State.isHandler_false_iff.mp hcls).symm.trans h) (by decide)

/-- The four steps of a place request for a READY NORMAL task. -/
theorem State.place_queued (hst : (s.task t).state = .ready) (hcls : (s.task t).cls = .normal) :
    s.place t =
      match all8.find? fun p => s.eligible p t && (s.engine p).freeForClaim with
      | some p => (s.beginSwitch p .preempt .readyHead).claimFor p t
      | none =>
        match leastUrgentPu (s.preemptKey t) all8 with
        | some p => (s.beginSwitch p .preempt .readyHead).claimFor p t
        | none =>
          match leastUrgentPu (s.retargetKey t) all8 with
          | some p => s.retarget p t
          | none => s :=
  if_pos ⟨hst, State.isHandler_false_iff.mpr hcls⟩

end

/-- Settles O23: the search for a free PU, then the two searches for the least urgent task, tried in turn. -/
theorem placeRequestTriesFourSteps : Obligations.PlaceRequestTriesFourSteps := by
  intro t nth s rest h s0 limit free preempts retargets least result
  have taken {s' : State} (h' : s0.place t = s') : result s' := congrArg Host.Outcome.next ((h.takes _).trans h')
  refine ⟨fun hno => taken (State.place_unqueued hno), fun hst hcls => ?_⟩
  have steps := State.place_queued (s := s0) hst hcls
  have free_iff (q : Pu) : (s0.eligible q t && (s0.engine q).freeForClaim) = true ↔ free q := by
    rw [Bool.and_eq_true, Engine.freeForClaim_iff]
    rfl
  have noFree (hfree : ∀ q, ¬ free q) : (all8.find? fun q => s0.eligible q t && (s0.engine q).freeForClaim) = none :=
    List.find?_eq_none.mpr fun q _ hq => hfree q ((free_iff q).mp hq)
  have noPreempt (hno : ∀ q r, ¬ preempts q r) : leastUrgentPu (s0.preemptKey t) all8 = none :=
    leastUrgentPu_of_no_candidate (s := s0) (fun _ _ => State.preemptKey_iff) hno
  refine ⟨fun q hq first => ?free, fun hfree q r ⟨hqr, hleast⟩ => ?preempt, fun hfree hpre q u ⟨hqu, hleast⟩ => ?retarget,
    fun hfree hpre hre => ?stays⟩
  case free =>
    have found : (all8.find? fun q => s0.eligible q t && (s0.engine q).freeForClaim) = some q := by
      refine (all8_find _ q).mpr ⟨(free_iff q).mpr hq, fun j hj => Bool.eq_false_iff.mpr fun hfj => ?_⟩
      exact absurd (first j ((free_iff j).mp hfj)) (not_le.mpr hj)
    have claimed : s0.place t = (s0.beginSwitch q .preempt .readyHead).claimFor q t := by rw [steps, found]
    refine ⟨fun hidle => taken ?_, fun sw hsw => taken ?_⟩
    · exact claimed.trans (congrArg (State.claimFor q t) (State.beginSwitch_idle (s := s0) hidle _ _))
    · exact claimed.trans (by rw [State.beginSwitch_switching (s := s0) hsw])
  case preempt =>
    have found := leastUrgentPu_of_least (s := s0) (cand := s0.Preempts t) (fun _ _ => State.preemptKey_iff) hqr hleast
    obtain ⟨-, hrun, -⟩ := hqr
    refine taken ?_
    rw [steps, noFree hfree, found]
    exact congrArg (State.claimFor q t) (State.beginSwitch_running (s := s0) hrun _ _)
  case retarget =>
    have found := leastUrgentPu_of_least (s := s0) (cand := s0.Retargets t) (fun _ _ => State.retargetKey_iff) hqu hleast
    obtain ⟨-, hclaimed, hnormal, -⟩ := hqu
    refine taken ?_
    rw [steps, noFree hfree, noPreempt hpre, found]
    exact (State.retarget_eq (s := s0) hclaimed t).trans (by rw [State.readyRequest_normal (s := s0) hnormal])
  case stays =>
    have found : leastUrgentPu (s0.retargetKey t) all8 = none :=
      leastUrgentPu_of_no_candidate (s := s0) (fun _ _ => State.retargetKey_iff) hre
    refine taken ?_
    rw [steps, noFree hfree, noPreempt hpre, found]

/-! ### The urgent arrival (R86 to R90) -/

section
variable {s : State} {p : Pu} {f t c : TaskId} {sw : Switch}

theorem Engine.occupancy_running {e : Engine} (h : e.st = .running t) : e.occupancy = e.stack.length := by
  simp [Engine.occupancy, Engine.pendingDest, h]

theorem State.urgentArrival_none (h : s.firstRunnable p .none = none) : s.urgentArrival p = s := by
  simp only [State.urgentArrival, h]

theorem State.urgentArrival_idle (hf : s.firstRunnable p .none = some f) (h : (s.engine p).st = .idle) :
    s.urgentArrival p = s.nest p f := by
  simp only [State.urgentArrival, hf, h]

/-- A NORMAL running task is displaced; a handler where f is more urgent and the occupancy allows (R87, R89). -/
theorem State.urgentArrival_running (hf : s.firstRunnable p .none = some f) (h : (s.engine p).st = .running t) :
    s.urgentArrival p =
      if s.isHandler t then
        if (s.task f).priority < (s.task t).priority then
          if (s.engine p).stack.length < 4 then s.nest p f else s.defer p
        else s
      else s.nest p f := by
  simp only [State.urgentArrival, hf, h, Engine.occupancy_running h]
  rfl

/-- A SWITCHING PU gives an empty slot, a NORMAL claim or a less urgent handler's claim to f (R88). -/
theorem State.urgentArrival_switching (hf : s.firstRunnable p .none = some f) (h : (s.engine p).st = .switching sw) :
    s.urgentArrival p =
      match sw.claimed with
      | some c =>
        if s.isHandler c then if s.prio f < s.prio c then s.retarget p f else s
        else (s.retarget p f).displaceOutgoing p
      | none => (s.claimFor p f).displaceOutgoing p := by
  simp only [State.urgentArrival, hf, h] <;> rfl

/-- A NORMAL outgoing task bound for READY-head is bound for the stack instead. -/
theorem State.displaceOutgoing_normal (h : (s.engine p).st = .switching sw) (ho : sw.outgoing = some ⟨t, .readyHead⟩)
    (hcls : (s.task t).cls = .normal) :
    s.displaceOutgoing p =
      s.setEngine p { s.engine p with st := .switching { sw with outgoing := some ⟨t, .displaced⟩ } } := by
  simp only [State.displaceOutgoing, h, ho, State.isHandler_false_iff.mpr hcls, Bool.false_eq_true, if_false,
    State.modSwitch_switching h, Switch.setDest, Option.map_some]

/-- Any other outgoing task keeps its destination. -/
theorem State.displaceOutgoing_other (h : (s.engine p).st = .switching sw)
    (ho : ∀ o, sw.outgoing = some ⟨o, .readyHead⟩ → (s.task o).cls = .handler) : s.displaceOutgoing p = s := by
  simp only [State.displaceOutgoing, h]
  split
  · rename_i o hout
    rw [if_pos (State.isHandler_iff.mpr (ho o hout))]
  · rfl

theorem State.reEvaluate_idle (h : (s.engine p).st = .idle) : s.reEvaluate p = s.ownChoice p := by
  simp only [State.reEvaluate, h]

theorem State.reEvaluate_other (h : (s.engine p).st ≠ .idle) : s.reEvaluate p = s.urgentArrival p := by
  unfold State.reEvaluate
  split
  · contradiction
  · rfl

/-- An absent PU is given no handler (R86). -/
theorem State.urgentArrival_absent (h : (s.engine p).st = .offline ∨ (s.engine p).st = .faulted) :
    s.urgentArrival p = s := by
  refine State.urgentArrival_none (State.firstRunnable_absent .none fun ⟨hpresent, _⟩ => ?_)
  obtain ⟨hoff, hfault⟩ := Engine.present_iff.mp hpresent
  exact h.elim hoff hfault

/-- What f takes of a SWITCHING PU that has no handler claimed, before the outgoing task is judged. -/
theorem State.urgentClaim_switching (h : (s.engine p).st = .switching sw) :
    let s1 := if sw.claimed = none then s.claimFor p f else s.retarget p f
    s1.engine p = { s.engine p with st := .switching { sw with claimed := some f } } ∧
      ∀ o, (s1.task o).cls = (s.task o).cls := by
  dsimp only
  split
  · exact ⟨State.claimFor_engine s p f h, (Local.refl.claimFor f).cls⟩
  · exact ⟨State.retarget_engine s p f h, (Local.refl.retarget f).cls⟩

theorem State.urgentArrival_claims (hf : s.firstRunnable p .none = some f) (h : (s.engine p).st = .switching sw)
    (hc : ∀ c, sw.claimed = some c → (s.task c).cls = .normal) :
    s.urgentArrival p = State.displaceOutgoing p (if sw.claimed = none then s.claimFor p f else s.retarget p f) := by
  rw [State.urgentArrival_switching hf h]
  cases hsw : sw.claimed with
  | none => rfl
  | some c => simp [State.isHandler_false_iff.mpr (hc c hsw)]

end

/-- Settles O24, by the state of the engine. -/
theorem urgentArrivalFollowsTheTable : Obligations.UrgentArrivalFollowsTheTable := by
  intro s p limit enter
  refine ⟨State.urgentArrival_none, fun f hf => ⟨fun hidle => ?idle, fun t hrun hcls => ?normal, fun h hrun hcls => ?handler,
    fun sw hsw => ⟨fun c hc hcls => ?claimedHandler, fun hnormal => ?claims⟩⟩, State.reEvaluate_idle,
    State.reEvaluate_other, fun kind nth rest h => ?taken⟩
  case idle => rw [State.urgentArrival_idle hf hidle, State.nest, State.beginSwitch_idle hidle]
  case normal =>
    simp only [State.urgentArrival_running hf hrun, State.isHandler_false_iff.mpr hcls, Bool.false_eq_true, if_false]
    rw [State.nest, State.beginSwitch_running hrun]
  case handler =>
    have table := State.urgentArrival_running hf hrun
    rw [if_pos (State.isHandler_iff.mpr hcls)] at table
    refine ⟨fun hlt hroom => ?_, fun hlt hfull => ?_, fun hle => table.trans (if_neg (not_lt.mpr hle))⟩
    · rw [table, if_pos hlt, if_pos hroom, State.nest, State.beginSwitch_running hrun]
    · rw [table, if_pos hlt, if_neg (not_lt.mpr hfull), State.defer, State.modEngine_eq]
  case claimedHandler =>
    have table := State.urgentArrival_switching hf hsw
    simp only [hc, State.isHandler_iff.mpr hcls, if_true] at table
    exact ⟨fun hlt => table.trans (if_pos hlt), fun hle => table.trans (if_neg (not_lt.mpr hle))⟩
  case claims =>
    have table := State.urgentArrival_claims hf hsw hnormal
    obtain ⟨hengine, hclass⟩ := State.urgentClaim_switching (f := f) hsw
    have hst := congrArg Engine.st hengine
    refine ⟨fun o ho hcls => ?_, fun ho => ?_⟩
    · rw [table, State.displaceOutgoing_normal hst ho ((hclass o).trans hcls), hengine]
    · rw [table, State.displaceOutgoing_other hst fun o hout => (hclass o).trans (ho o hout)]
  case taken =>
    refine ⟨fun hk => ?_, fun hk => ?_, fun habsent => ?_⟩
    · subst hk; exact congrArg Host.Outcome.next (h.takes _)
    · subst hk; exact congrArg Host.Outcome.next (h.takes _)
    · refine congrArg Host.Outcome.next ((h.takes _).trans ?_)
      have ignored := State.urgentArrival_absent (s := { s with requests := rest }) (p := p) habsent
      cases kind with
      | arrival => exact ignored
      | reEvaluation =>
        refine (State.reEvaluate_other fun hidle => ?_).trans ignored
        exact habsent.elim (fun ha => nomatch ha.symm.trans hidle) fun ha => nomatch ha.symm.trans hidle

end Sys2Proof.Machine
end

section
/-!
PROOFS. Partition Control (O26 to O29): the halt request, RELEASE_PARTITION, PURGE_PARTITION and the end of a purge.
-/

namespace Sys2Proof.Machine

/-! ### A new choice of claim, as its engine sees it (R65, R66) -/

section
variable {s : State} {p : Pu} {t : TaskId} {k : Partition} {sw : Switch}

/-- The state of a new choice after its pops and returns, a passed-over outgoing task then bound for READY-head (R96 (a)). -/
def State.choiceState (p : Pu) (c : Choice) : State :=
  if c.passedStanding then c.st.modSwitch p (Switch.setDest .readyHead) else c.st

theorem State.newChoice_eq (h : (s.engine p).st = .switching sw) :
    s.newChoice p =
      let c := s.unwind p sw.standing (s.outgoingAtHead sw)
      let s2 := match c.chosen with
        | some t =>
          if sw.outgoing.map Outgoing.task = some t then (State.choiceState p c).withdraw p
          else (State.choiceState p c).claimFor p t
        | none => State.choiceState p c
      s2.request (s2.readyRequests c.returned) := by
  unfold State.newChoice
  rw [h] <;> rfl

theorem State.withdraw_eq {o : Outgoing} (h : (s.engine p).st = .switching sw) (ho : sw.outgoing = some o) :
    s.withdraw p = s.setEngine p { s.engine p with st := .running o.task } := by
  simp only [State.withdraw, h, ho, State.setEngineState_eq]

theorem Switch.setDest_claimed (d : Dest) (sw : Switch) : (sw.setDest d).claimed = sw.claimed := rfl

theorem Switch.setDest_task (d : Dest) (sw : Switch) :
    (sw.setDest d).outgoing.map Outgoing.task = sw.outgoing.map Outgoing.task := by
  cases h : sw.outgoing <;> simp [Switch.setDest, h]

/-- A choice changes its engine's switch in the destination alone. -/
theorem State.choiceState_engine (h : (s.engine p).st = .switching sw) (standing : Option TaskId) (x : Extra) :
    ∃ sw', ((State.choiceState p (s.unwind p standing x)).engine p).st = .switching sw' ∧ sw'.claimed = sw.claimed ∧
      sw'.outgoing.map Outgoing.task = sw.outgoing.map Outgoing.task := by
  have hst := (s.unwind_engineState p standing x).trans h
  unfold State.choiceState
  split
  · rw [State.modSwitch_switching hst, State.engine_setEngine_same]
    exact ⟨_, rfl, sw.setDest_claimed _, sw.setDest_task _⟩
  · exact ⟨sw, hst, rfl, rfl⟩

/-- After a new choice into an empty slot the PU is SWITCHING, its claim of a partition neither halted nor purging, or it is
back to RUNNING, and so is its task. -/
theorem State.newChoice_engine (h : (s.engine p).st = .switching sw) (hc : sw.claimed = none) :
    (∃ sw', ((s.newChoice p).engine p).st = .switching sw' ∧
      ∀ u, sw'.claimed = some u → s.blocked (s.task u).partition = false) ∨
    ∃ u, ((s.newChoice p).engine p).st = .running u ∧ s.blocked (s.task u).partition = false := by
  rw [State.newChoice_eq h]
  dsimp only
  rw [State.request_engine_read]
  obtain ⟨sw', hst, hclaimed, hout⟩ := State.choiceState_engine h sw.standing (s.outgoingAtHead sw)
  split
  · rename_i t hchosen
    have free := State.unwind_not_blocked hchosen
    split
    · rename_i htask
      obtain ⟨o, ho, rfl⟩ := Option.map_eq_some_iff.mp (hout.trans htask)
      rw [State.withdraw_eq hst ho, State.engine_setEngine_same]
      exact .inr ⟨_, rfl, free⟩
    · rw [State.claimFor_engine _ p t hst]
      exact .inl ⟨_, rfl, fun u hu => Option.some.inj hu ▸ free⟩
  · refine .inl ⟨sw', hst, fun u hu => ?_⟩
    rw [hclaimed, hc] at hu
    cases hu

end

/-! ### One engine takes a halt request (R40 (c), (d)) -/

section
variable {s : State} {p : Pu} {t u : TaskId} {k : Partition} {o : Option TaskId}

theorem State.inPartition_iff : s.inPartition k o = true ↔ ∃ t, o = some t ∧ (s.task t).partition = k := by
  cases o <;> simp [State.inPartition]

/-- Engine p with its running task of partition k asked out (R40 (c)). -/
def State.haltAsked (k : Partition) (p : Pu) (s : State) : State :=
  if s.inPartition k (s.engine p).runningTask then s.askOut p .halt .readyHead else s

theorem State.haltEngine_eq (s : State) (k : Partition) (p : Pu) :
    s.haltEngine k p =
      match ((s.haltAsked k p).engine p).claimedTask with
      | some c =>
        if (s.haltAsked k p).inPartition k (some c) then
          if (s.haltAsked k p).isHandler c then
            (((s.haltAsked k p).returnClaim p).newChoice p).request [(s.haltAsked k p).readyRequest c]
          else ((s.haltAsked k p).returnClaim p).newChoice p
        else s.haltAsked k p
      | none => s.haltAsked k p := rfl

/-- An engine without a claim of the partition keeps its slot. -/
theorem State.haltEngine_keeps
    (h : ∀ u, ((s.haltAsked k p).engine p).claimedTask = some u → ((s.haltAsked k p).task u).partition ≠ k) :
    s.haltEngine k p = s.haltAsked k p := by
  rw [State.haltEngine_eq]
  split
  · rename_i c hc
    rw [if_neg fun hin => h c hc (State.inPartition_some_iff.mp hin)]
  · rfl

/-- A claim of the partition is returned and the PU chooses anew. -/
theorem State.haltEngine_returns (hu : ((s.haltAsked k p).engine p).claimedTask = some u)
    (hk : ((s.haltAsked k p).task u).partition = k) :
    s.haltEngine k p =
      if (s.haltAsked k p).isHandler u then
        (((s.haltAsked k p).returnClaim p).newChoice p).request [(s.haltAsked k p).readyRequest u]
      else ((s.haltAsked k p).returnClaim p).newChoice p := by
  rw [State.haltEngine_eq]
  simp only [hu, State.inPartition_some_iff.mpr hk, if_true]

theorem State.haltAsked_running (h : (s.engine p).st = .running t) (hk : (s.task t).partition = k) :
    s.haltAsked k p = s.switchOut p .halt .readyHead := by
  rw [State.haltAsked, if_pos (State.inPartition_iff.mpr ⟨t, Engine.runningTask_running h, hk⟩)]
  simp only [State.askOut, h]

/-- READY-head replaces no destination: only a RUNNING PU is asked out. -/
theorem State.haltAsked_other (h : ∀ t, (s.engine p).st = .running t → (s.task t).partition ≠ k) :
    s.haltAsked k p = s := by
  unfold State.haltAsked
  split
  · rename_i hin
    obtain ⟨t, ht, hk⟩ := State.inPartition_iff.mp hin
    unfold State.askOut
    split
    · rename_i r hr
      rw [Engine.runningTask_running hr] at ht
      exact absurd (Option.some.inj ht ▸ hk) (h r hr)
    · exact s.requestDest_readyHead p
    · rfl
  · rfl

theorem State.haltAsked_local : Local p s (s.haltAsked k p) := by
  unfold State.haltAsked
  split
  · exact Local.refl.askOut_readyHead _
  · exact .refl

theorem State.haltAsked_moves : Moves s (s.haltAsked k p) := by
  unfold State.haltAsked
  split
  · exact (Moves.refl s).askOut _ _ _
  · exact .refl s

/-- After a halt of its partition the PU is SWITCHING, and claims no task of it. -/
theorem State.haltAsked_running_engine (h : (s.engine p).st = .running t) (hk : (s.task t).partition = k)
    (hb : s.blocked k = true) :
    ∃ claimed, ((s.haltAsked k p).engine p).st =
        .switching ⟨.halt, some ⟨t, .readyHead⟩, claimed, s.frame.handoverLimit, s.frame.handoverLimit⟩ ∧
      ∀ c, claimed = some c → (s.task c).partition ≠ k := by
  obtain ⟨claimed, hst, hfree⟩ := State.switchOut_engine (why := .halt) (d := .readyHead) h
  refine ⟨claimed, (State.haltAsked_running h hk).symm ▸ hst, fun c hc hck => ?_⟩
  have := hfree c hc
  rw [hck, hb] at this
  cases this

/-- A RUNNING PU whose task is of a partition that is halted enters SWITCHING with reason HALT. -/
theorem State.haltEngine_running (h : (s.engine p).st = .running t) (hk : (s.task t).partition = k)
    (hb : s.blocked k = true) :
    ∃ claimed, ((s.haltEngine k p).engine p).st =
        .switching ⟨.halt, some ⟨t, .readyHead⟩, claimed, s.frame.handoverLimit, s.frame.handoverLimit⟩ := by
  obtain ⟨claimed, hst, hfree⟩ := State.haltAsked_running_engine h hk hb
  refine ⟨claimed, ?_⟩
  rw [State.haltEngine_keeps fun u hu => ?_]
  · exact hst
  · rw [Engine.claimedTask_switching hst] at hu
    rw [(State.haltAsked_local (s := s)).partition u]
    exact hfree u hu

/-- What a halt of partition k leaves of engine p: no claim of k, and no running task of k but while SWITCHING. -/
def State.HaltLeaves (s s' : State) (k : Partition) (p : Pu) : Prop :=
  (∀ c, (s'.engine p).claimedTask = some c → (s.task c).partition ≠ k) ∧
    ∀ t, (s'.engine p).runningTask = some t → (s.task t).partition = k → ∃ sw, (s'.engine p).st = .switching sw

theorem Engine.switching_of_claimed {e : Engine} (h : e.claimedTask = some u) : ∃ sw, e.st = .switching sw := by
  revert h
  unfold Engine.claimedTask
  split
  · exact fun _ => ⟨_, ‹_›⟩
  · exact fun h => nomatch h

theorem Engine.running_or_switching {e : Engine} (h : e.runningTask = some t) :
    e.st = .running t ∨ ∃ sw, e.st = .switching sw := by
  revert h
  unfold Engine.runningTask
  split
  · rename_i r hr
    exact fun h => .inl (Option.some.inj h ▸ hr)
  · exact fun _ => .inr ⟨_, ‹_›⟩
  · exact fun h => nomatch h

/-- An engine without a claim of the partition was asked out, or runs no task of it. -/
theorem State.haltAsked_leaves (hb : s.blocked k = true)
    (hkeep : ∀ u, ((s.haltAsked k p).engine p).claimedTask = some u → ((s.haltAsked k p).task u).partition ≠ k) :
    s.HaltLeaves (s.haltAsked k p) k p := by
  have lo : Local p s (s.haltAsked k p) := State.haltAsked_local
  refine ⟨fun c hc => lo.partition c ▸ hkeep c hc, fun t ht htk => ?_⟩
  by_cases hrun : ∃ r, (s.engine p).st = .running r ∧ (s.task r).partition = k
  · obtain ⟨r, hr, hrk⟩ := hrun
    obtain ⟨claimed, hst, -⟩ := State.haltAsked_running_engine hr hrk hb
    exact ⟨_, hst⟩
  · have same : s.haltAsked k p = s := State.haltAsked_other fun r hr hrk => hrun ⟨r, hr, hrk⟩
    rw [same] at ht ⊢
    exact (Engine.running_or_switching ht).resolve_left fun hst => hrun ⟨t, hst, htk⟩

/-- The new choice after a returned claim takes no task of the partition, which is halted. -/
theorem State.haltReturned_leaves (hb : s.blocked k = true) (hu : ((s.haltAsked k p).engine p).claimedTask = some u) :
    s.HaltLeaves (((s.haltAsked k p).returnClaim p).newChoice p) k p := by
  obtain ⟨sw, hsw⟩ := Engine.switching_of_claimed hu
  have emptied : (((s.haltAsked k p).returnClaim p).engine p).st = .switching { sw with claimed := none } := by
    rw [State.returnClaim_eq hsw (Engine.claimedTask_switching hsw ▸ hu)]
    simp
  have free (v : TaskId)
      (hv : ((s.haltAsked k p).returnClaim p).blocked ((((s.haltAsked k p).returnClaim p).task v).partition) = false) :
      (s.task v).partition ≠ k := fun hvk => by
    rw [(State.haltAsked_moves.returnClaim p).blocked, (State.haltAsked_local.returnClaim).partition, hvk, hb] at hv
    cases hv
  rcases State.newChoice_engine emptied rfl with ⟨sw', hst, hcl⟩ | ⟨v, hst, hv⟩
  · exact ⟨fun c hc => free c (hcl c (Engine.claimedTask_switching hst ▸ hc)), fun _ _ _ => ⟨sw', hst⟩⟩
  · refine ⟨fun c hc => ?_, fun t ht htk => ?_⟩
    · simp [Engine.claimedTask, hst] at hc
    · rw [Engine.runningTask_running hst] at ht
      exact absurd htk (Option.some.inj ht ▸ free v hv)

theorem State.haltEngine_leaves (hb : s.blocked k = true) : s.HaltLeaves (s.haltEngine k p) k p := by
  by_cases hclaim : ∃ u, ((s.haltAsked k p).engine p).claimedTask = some u ∧ ((s.haltAsked k p).task u).partition = k
  · obtain ⟨u, hu, huk⟩ := hclaim
    have left := State.haltReturned_leaves hb hu
    rw [State.haltEngine_returns hu huk]
    split
    · rw [State.HaltLeaves, State.request_engine_read]
      exact left
    · exact left
  · have hkeep : ∀ u, ((s.haltAsked k p).engine p).claimedTask = some u → ((s.haltAsked k p).task u).partition ≠ k :=
      fun u hu huk => hclaim ⟨u, hu, huk⟩
    rw [State.haltEngine_keeps hkeep]
    exact State.haltAsked_leaves hb hkeep

end

/-! ### The halt request (R40, R42) -/

section
variable {s : State} {k : Partition} {why : HaltReason}

/-- The partition is halted with its reason and PARTITION_HALTED is latched; no engine has taken the request yet. -/
def State.haltBegun (k : Partition) (why : HaltReason) (s : State) : State :=
  (s.setPart k { s.part k with halted := some why }).latch .partitionHalted

/-- The engines with a running or claimed task of the partition. -/
def State.haltPus (s : State) (k : Partition) : List Pu :=
  all8.filter fun q => s.inPartition k (s.engine q).runningTask || s.inPartition k (s.engine q).claimedTask

theorem State.mem_haltPus {q : Pu} :
    q ∈ s.haltPus k ↔ (∃ t, (s.engine q).runningTask = some t ∧ (s.task t).partition = k) ∨
      ∃ t, (s.engine q).claimedTask = some t ∧ (s.task t).partition = k := by
  simp only [State.haltPus, List.mem_filter, mem_all8, true_and, Bool.or_eq_true, State.inPartition_iff]

theorem all8_nodup : all8.Nodup := List.nodup_finRange 8

theorem State.haltPartition_halted (h : (s.part k).halted ≠ none) : s.haltPartition k why = s := by
  rw [State.haltPartition, if_pos (Option.isSome_iff_ne_none.mpr h)]

theorem State.haltPartition_eq (h : (s.part k).halted = none) :
    s.haltPartition k why =
      (engineOrder s.freeIndex (s.haltPus k)).foldl (fun x q => x.haltEngine k q)
        { s.haltBegun k why with freeIndex := s.freeIndex + 1 } := by
  rw [State.haltPartition, if_neg (by simp [h])]
  rfl

theorem State.haltOrder_nodup : (engineOrder s.freeIndex (s.haltPus k)).Nodup :=
  (engineOrder_perm _ _).nodup_iff.mpr (all8_nodup.filter _)

theorem State.mem_haltOrder {q : Pu} :
    q ∈ engineOrder s.freeIndex (s.haltPus k) ↔ (∃ t, (s.engine q).runningTask = some t ∧ (s.task t).partition = k) ∨
      ∃ t, (s.engine q).claimedTask = some t ∧ (s.task t).partition = k :=
  (engineOrder_perm _ _).mem_iff.trans State.mem_haltPus

theorem State.haltBegun_halted (j : Partition) :
    ((s.haltBegun k why).part j).halted = if k = j then some why else (s.part j).halted := by
  rw [State.haltBegun, State.latch_part_read, State.part_setPart]
  split <;> rfl

theorem State.latched_latch (s : State) (c : Cond) : (s.latch c).latched c = true := by
  simp [State.latched, State.latch, Cond.mask_bit]

end

theorem partitionArgs_some {c : Captured} {k : Partition} (h : (c.arg 0).toNat = k.val) : partitionArgs c = some k :=
  asFin_some k h

/-- What a halt of a partition that is not halted leaves (R40). -/
theorem State.haltPartition_spec {s : State} {k : Partition} {why : HaltReason} (h : (s.part k).halted = none) :
    let s' := s.haltPartition k why
    (s'.part k).halted = some why ∧ (∀ j, j ≠ k → (s'.part j).halted = (s.part j).halted) ∧
    s'.latched .partitionHalted = true ∧ s'.frame = s.frame ∧ s'.ports = s.ports ∧ s'.channels = s.channels ∧
    s'.delayList = s.delayList ∧
    (∀ q t, (s.engine q).st = .running t → (s.task t).partition = k →
      ∃ claimed, (s'.engine q).st = .switching
        ⟨.halt, some ⟨t, .readyHead⟩, claimed, s.frame.handoverLimit, s.frame.handoverLimit⟩) ∧
    (∀ q, (∀ t, (s'.engine q).claimedTask = some t → (s'.task t).partition ≠ k) ∧
      (∀ t, (s'.engine q).runningTask = some t → (s'.task t).partition = k → s'.swreq q = true)) ∧
    (∀ q, (∀ t, (s.engine q).runningTask = some t → (s.task t).partition ≠ k) →
      (∀ t, (s.engine q).claimedTask = some t → (s.task t).partition ≠ k) → s'.engine q = s.engine q) := by
  intro s'
  obtain ⟨moves, hchannels, hdelay, hconds, hpart, hothers, hturn⟩ :=
    eachEngine_spec (State.haltEngine k) (fun _ _ => Local.refl.haltEngine k) (fun _ _ => (Moves.refl _).haltEngine k _)
      (engineOrder s.freeIndex (s.haltPus k)) State.haltOrder_nodup { s.haltBegun k why with freeIndex := s.freeIndex + 1 }
  rw [← State.haltPartition_eq h] at moves hchannels hdelay hconds hpart hothers hturn
  change Moves _ s' at moves
  have halted (j : Partition) : (s'.part j).halted = if k = j then some why else (s.part j).halted :=
    (moves.halted j).trans (State.haltBegun_halted j)
  have turn {q : Pu} (hq : (∃ t, (s.engine q).runningTask = some t ∧ (s.task t).partition = k) ∨
      ∃ t, (s.engine q).claimedTask = some t ∧ (s.task t).partition = k) :
      ∃ x : State, x.frame = s.frame ∧ x.engine q = s.engine q ∧ (∀ t, (x.task t).partition = (s.task t).partition) ∧
        x.blocked k = true ∧ s'.engine q = (x.haltEngine k q).engine q := by
    obtain ⟨x, mx, hengine, hxpart, hturned⟩ := hturn q (State.mem_haltOrder.mpr hq)
    refine ⟨x, mx.frame, hengine, hxpart, ?_, hturned⟩
    rw [State.blocked, mx.halted k]
    exact Bool.or_eq_true_iff.mpr (.inl (congrArg Option.isSome ((State.haltBegun_halted k).trans (if_pos rfl))))
  have other {q : Pu} (hq : ¬ ((∃ t, (s.engine q).runningTask = some t ∧ (s.task t).partition = k) ∨
      ∃ t, (s.engine q).claimedTask = some t ∧ (s.task t).partition = k)) : s'.engine q = s.engine q :=
    hothers q fun hmem => hq (State.mem_haltOrder.mp hmem)
  refine ⟨(halted k).trans (if_pos rfl), fun j hj => (halted j).trans (if_neg hj.symm), ?_, moves.frame, moves.ports,
    hchannels, hdelay, fun q t hq hk => ?running, fun q => ?engines, fun q hrun hclaim => other ?_⟩
  · rw [State.latched, hconds]
    exact State.latched_latch _ _
  case running =>
    obtain ⟨x, hframe, hengine, hxpart, hb, hturned⟩ := turn (.inl ⟨t, Engine.runningTask_running hq, hk⟩)
    rw [hturned, ← hframe]
    exact State.haltEngine_running (by rw [hengine, hq]) ((hxpart t).trans hk) hb
  case engines =>
    by_cases hq : (∃ t, (s.engine q).runningTask = some t ∧ (s.task t).partition = k) ∨
        ∃ t, (s.engine q).claimedTask = some t ∧ (s.task t).partition = k
    · obtain ⟨x, -, -, hxpart, hb, hturned⟩ := turn hq
      obtain ⟨hclaim, hrun⟩ := State.haltEngine_leaves (p := q) hb
      have same (t : TaskId) : (s'.task t).partition = (x.task t).partition := (hpart t).trans (hxpart t).symm
      rw [hturned]
      refine ⟨fun t ht => same t ▸ hclaim t ht, fun t ht hk => ?_⟩
      obtain ⟨sw, hsw⟩ := hrun t ht (same t ▸ hk)
      exact State.swreq_switching (hturned ▸ hsw)
    · rw [other hq]
      have partition (t : TaskId) : (s'.task t).partition = (s.task t).partition := hpart t
      exact ⟨fun t ht hk => hq (.inr ⟨t, ht, partition t ▸ hk⟩),
        fun t ht hk => absurd (.inl ⟨t, ht, partition t ▸ hk⟩) hq⟩
  · rintro (⟨t, ht, hk⟩ | ⟨t, ht, hk⟩)
    · exact hrun t ht hk
    · exact hclaim t ht hk

/-- Settles O26: each engine's turn leaves the other engines, every partition and every class as they were. -/
theorem haltSwitchesThePartitionOut : Obligations.HaltSwitchesThePartitionOut := by
  intro s k why s'
  refine ⟨State.haltPartition_halted, fun h => ?halts, ?engine, fun p c hc hk => ?command,
    fun t rest h => congrArg Host.Outcome.next (h.takes _)⟩
  case halts =>
    obtain ⟨h1, h2, h3, h4, h5, h6, h7, h8, h9, h10⟩ := State.haltPartition_spec (why := why) h
    exact ⟨h1, h2, h3, h4, h5, h6, h7, h8, h9, h10, engineOrder s.freeIndex (s.haltPus k), State.haltOrder_nodup,
      fun q => State.mem_haltOrder, State.haltPartition_eq h⟩
  case engine =>
    intro q s1 mine hasked hnot
    have asked : s.haltAsked k q = s1 := by
      unfold State.haltAsked
      split
      · exact (hasked (State.inPartition_iff.mp ‹_›)).symm
      · exact (hnot fun hm => absurd (State.inPartition_iff.mpr hm) ‹_›).symm
    subst asked
    refine ⟨State.haltEngine_keeps, fun u hu huk => ⟨fun hcls => ?_, fun hcls => ?_⟩⟩
    · rw [State.haltEngine_returns hu huk, if_neg (by rw [State.isHandler_false_iff.mpr hcls]; decide)]
    · rw [State.haltEngine_returns hu huk, if_pos (State.isHandler_iff.mpr hcls), State.readyRequest_handler hcls]
  case command =>
    refine (hc.performs (partitionArgs_some hk) rfl).trans (congrArg Host.Outcome.next ?_)
    have fresh : flagCode (s.part k).halted.isNone = if (s.part k).halted = none then 1 else 0 := by
      cases (s.part k).halted <;> rfl
    rw [State.haltCommand, fresh]

/-! ### RELEASE_PARTITION (R43) -/

theorem State.readyOf_eq (s : State) (k : Partition) :
    s.readyOf k = s.readyQueue k 0 ++ s.readyQueue k 1 ++ s.readyQueue k 2 ++ s.readyQueue k 3 ++ s.readyQueue k 4 ++
      s.readyQueue k 5 ++ s.readyQueue k 6 ++ s.readyQueue k 7 := by
  simp [State.readyOf, all8_eq]

/-- Settles O27. -/
theorem releasePlacesTheReadyTasksInOrder : Obligations.ReleasePlacesTheReadyTasksInOrder := by
  intro p c s k hc hk hhalted ready pus
  have ok : (if (s.part k).halted.isSome then none else some Status.refusedState) = none :=
    if_pos (Option.isSome_iff_ne_none.mpr hhalted)
  refine (hc.performs (partitionArgs_some hk) ok).trans (congrArg Host.Outcome.next ?_)
  unfold State.releaseCommand
  dsimp only
  rw [State.readyOf_eq, State.urgentPusOf, all8_eq]
  rfl

/-! ### PURGE_PARTITION (R44) -/

/-- Settles O28. -/
theorem purgeRetiresThePartition : Obligations.PurgeRetiresThePartition := by
  intro p c s k deferred hc hk hpurge hdeferred todo begun
  have ok : (if (s.part k).purge.isSome then some Status.refusedState else none) = none := if_neg (by simp [hpurge])
  have own : (if s.inPartition k (s.issuerTask p) then s.issuerTask p else none) = deferred := by
    refine Option.ext fun t => ?_
    rw [hdeferred t]
    split
    · rename_i hin
      obtain ⟨u, hu, huk⟩ := State.inPartition_iff.mp hin
      exact ⟨fun ht => ⟨ht, Option.some.inj (hu.symm.trans ht) ▸ huk⟩, And.left⟩
    · rename_i hin
      exact ⟨fun ht => (nomatch ht), fun ⟨ht, htk⟩ => absurd (State.inPartition_iff.mpr ⟨t, ht, htk⟩) hin⟩
  refine (hc.performs (partitionArgs_some hk) ok).trans (congrArg Host.Outcome.next ?_)
  unfold State.purgeCommand
  dsimp only
  rw [own]
  rfl

/-! ### The end of a purge (R46) -/

section
variable {s : State} {k : Partition} {g : Purge}

theorem State.setPart_setPart (s : State) (k : Partition) (a b : PartitionRecord) :
    (s.setPart k a).setPart k b = s.setPart k b := by
  unfold State.setPart
  rw [put_put]

theorem State.settlePurge_some (h : (s.part k).purge = some g) :
    s.settlePurge k = State.clearPurge k (if !g.ended && s.othersFree k g then s.endPurge k g else s) := by
  simp only [State.settlePurge, h]

theorem State.clearPurge_some (h : (s.part k).purge = some g) :
    s.clearPurge k =
      if g.ended && (s.deferredLive k g).isNone then s.setPart k { s.part k with purge := none } else s := by
  simp only [State.clearPurge, h]

/-- A purge that has not ended is not cleared. -/
theorem State.clearPurge_open (h : (s.part k).purge = some g) (hg : g.ended = false) : s.clearPurge k = s := by
  rw [State.clearPurge_some h, hg, if_neg (by simp)]

/-- The purge's port is answered. -/
def State.purgeAnswered (k : Partition) (g : Purge) (s : State) : State :=
  match g.port with
  | some p => s.answer p [low k.val, low g.count]
  | none => s

theorem State.purgeAnswered_task (t : TaskId) : (s.purgeAnswered k g).task t = s.task t := by
  unfold State.purgeAnswered
  split
  · rw [State.answer_eq, State.setPort_task_read]
  · rfl

/-- The purge's port is answered and its record marked ended. -/
def State.purgeEnded (k : Partition) (g : Purge) (s : State) : State :=
  (s.purgeAnswered k g).setPart k
    { (s.purgeAnswered k g).part k with purge := some { g with port := none, ended := true } }

theorem State.purgeEnded_purge : ((s.purgeEnded k g).part k).purge = some { g with port := none, ended := true } := by
  rw [State.purgeEnded, State.part_setPart_same]

theorem State.purgeEnded_task (t : TaskId) : (s.purgeEnded k g).task t = s.task t := by
  rw [State.purgeEnded, State.setPart_task_read, State.purgeAnswered_task]

theorem State.endPurge_eq (s : State) (k : Partition) (g : Purge) :
    s.endPurge k g =
      match (s.purgeEnded k g).deferredLive k g with
      | some t => (s.purgeEnded k g).retireTask t
      | none => s.purgeEnded k g := rfl

/-- With its deferred task FREE, the purge that ends clears purging. -/
theorem State.clearPurge_ended (h : (s.purgeEnded k g).deferredLive k g = none) :
    (s.purgeEnded k g).clearPurge k =
      (s.purgeAnswered k g).setPart k { (s.purgeAnswered k g).part k with purge := none } := by
  have dead : (s.purgeEnded k g).deferredLive k { g with port := none, ended := true } = none := h
  refine (State.clearPurge_some State.purgeEnded_purge).trans ?_
  rw [dead]
  refine (if_pos rfl).trans ?_
  rw [State.purgeEnded, State.part_setPart_same, State.setPart_setPart]

end

/-- Settles O29. -/
theorem purgeEndsWhenTheOthersAreFree : Obligations.PurgeEndsWhenTheOthersAreFree := by
  intro s k g hg setPurge alive answered
  refine ⟨fun hopen => ⟨fun ⟨t, hdef, halive⟩ => ?waits, fun hfree => ?ends⟩, fun hended => ⟨?settles,
    fun ⟨t, hdef, halive⟩ => ?held,
    fun hdead => ?cleared⟩⟩
  case waits =>
    have busy : s.othersFree k g = false :=
      Bool.eq_false_iff.mpr fun hall => State.othersFree_iff.mp hall t hdef halive
    rw [State.settlePurge_some hg, busy, Bool.and_false, if_neg (by decide), State.clearPurge_open hg hopen]
  case ends =>
    have settled : s.settlePurge k = (s.endPurge k g).clearPurge k := by
      rw [State.settlePurge_some hg, State.othersFree_iff.mpr hfree, hopen]
      rfl
    refine ⟨fun hdead => ?_, fun t hdef halive => ?_⟩
    · have dead : (s.purgeEnded k g).deferredLive k g = none :=
        State.deferredLive_none_iff.mpr fun t hdef => by rw [State.purgeEnded_task]; exact hdead t hdef
      rw [settled, State.endPurge_eq, dead]
      exact State.clearPurge_ended dead
    · have live : (s.purgeEnded k g).deferredLive k g = some t :=
        State.deferredLive_some hdef (by rw [State.purgeEnded_task]; exact halive)
      rw [settled, State.endPurge_eq, live]
      rfl
  case settles => rw [State.settlePurge_some hg, hended]; rfl
  case held =>
    rw [State.clearPurge_some hg, State.deferredLive_some hdef halive, if_neg (by simp)]
  case cleared =>
    rw [State.clearPurge_some hg, State.deferredLive_none_iff.mpr hdead, hended]
    rfl

end Sys2Proof.Machine
end

section
/-!
PROOFS. The PU Engines (O30 to O34): switch requests, new choices, JOIN, LEAVE and the own choice, completion and HANDOVER.
-/

namespace Sys2Proof.Machine

/-! ### Switch requests (R54 to R58) -/

section
variable {s : State} {p : Pu} {t : TaskId} {sw : Switch} {o : Outgoing} {d : Dest} {why : SwitchReason}

theorem State.swreq_iff : s.swreq p = true ↔ ∃ sw, (s.engine p).st = .switching sw := by
  show (match (s.engine p).st with
    | .switching _ => true
    | _ => false) = true ↔ _
  cases (s.engine p).st <;> simp

theorem State.askOut_running (h : (s.engine p).st = .running t) : s.askOut p why d = s.switchOut p why d := by
  simp only [State.askOut, h]

theorem State.askOut_switching (h : (s.engine p).st = .switching sw) : s.askOut p why d = s.requestDest p d := by
  simp only [State.askOut, h]

theorem State.askOut_other (h : (s.engine p).st = .idle ∨ (s.engine p).st = .offline ∨ (s.engine p).st = .faulted) :
    s.askOut p why d = s := by
  rcases h with h | h | h <;> simp only [State.askOut, h]

theorem State.requestDest_none (h : (s.engine p).pendingDest = none) : s.requestDest p d = s := by
  simp only [State.requestDest, h]

theorem State.requestDest_some (h : (s.engine p).st = .switching sw) (ho : sw.outgoing = some o) :
    s.requestDest p d =
      if o.dest.rank < d.rank then
        let s1 := s.setEngine p { s.engine p with st := .switching { sw with outgoing := some ⟨o.task, d⟩ } }
        if o.dest = .displaced then s1.reEvaluate p else s1
      else s := by
  have hd : (s.engine p).pendingDest = some o.dest := by rw [Engine.pendingDest_switching h, ho]; rfl
  have set : sw.setDest d = { sw with outgoing := some ⟨o.task, d⟩ } := by rw [Switch.setDest, ho]; rfl
  simp only [State.requestDest, hd, State.modSwitch_switching h, set]

end

/-- Settles O30. -/
theorem switchRequestsActByEngineState : Obligations.SwitchRequestsActByEngineState := by
  intro s q why d limit
  refine ⟨State.swreq_iff, fun t h => ?running, fun sw o h ho => ⟨fun hlt => ?higher, fun hle => ?notHigher⟩,
    fun sw h ho => ?unbound, State.askOut_other, fun r => ?ranks⟩
  case running =>
    rw [State.askOut_running h, State.switchOut, State.beginSwitch_running h]
    rfl
  case higher => rw [State.askOut_switching h, State.requestDest_some h ho, if_pos hlt]
  case notHigher => rw [State.askOut_switching h, State.requestDest_some h ho, if_neg (not_lt.mpr hle)]
  case unbound =>
    rw [State.askOut_switching h, State.requestDest_none]
    rw [Engine.pendingDest_switching h, ho]
    rfl
  case ranks => simp only [Dest.rank]; decide

/-! ### New choices of claim (R65, R66) -/

section
variable {s : State} {sw : Switch} {standing : Option TaskId} {x : Extra}

theorem Switch.standing_iff {t : TaskId} : sw.standing = some t ↔ sw.outgoing = some ⟨t, .displaced⟩ := by
  unfold Switch.standing
  split
  · rename_i u h
    simp [h]
  · rename_i h
    simpa using h t

theorem State.outgoingAtHead_iff {t : TaskId} :
    s.outgoingAtHead sw = .head t ↔ sw.outgoing = some ⟨t, .readyHead⟩ ∧ (s.task t).cls = .normal := by
  unfold State.outgoingAtHead
  split
  · rename_i u h
    rw [h]
    cases hcls : s.isHandler u with
    | true =>
      have := State.isHandler_iff.mp hcls
      simp only [if_true, reduceCtorEq, Option.some.injEq, Outgoing.mk.injEq, and_true, false_iff, not_and]
      rintro rfl
      simp [this]
    | false =>
      have := State.isHandler_false_iff.mp hcls
      simp only [Bool.false_eq_true, if_false, Extra.head.injEq, Option.some.injEq, Outgoing.mk.injEq, and_true]
      exact ⟨fun h => ⟨h, h ▸ this⟩, And.left⟩
  · rename_i h
    simpa using fun h' => absurd h' (h t)

theorem State.outgoingAtHead_not_tail (t : TaskId) : s.outgoingAtHead sw ≠ .tail t := by
  unfold State.outgoingAtHead
  repeat' split
  all_goals exact fun h => nomatch h

theorem Extra.eq_of_head {x y : Extra} (h : ∀ t, x = .head t ↔ y = .head t) (hx : ∀ t, x ≠ .tail t) (hy : ∀ t, y ≠ .tail t) :
    x = y := by
  cases x with
  | head t => exact ((h t).mp rfl).symm
  | tail t => exact absurd rfl (hx t)
  | none =>
    cases y with
    | none => rfl
    | head t => exact (h t).mpr rfl
    | tail t => exact absurd rfl (hy t)

end

/-- Settles O31. -/
theorem newChoiceClaimsOrWithdraws : Obligations.NewChoiceClaimsOrWithdraws := by
  intro s q sw h standing x hstanding hx htail choice passed followed
  have same : standing = sw.standing := Option.ext fun t => (hstanding t).trans Switch.standing_iff.symm
  have extra : x = s.outgoingAtHead sw :=
    Extra.eq_of_head (fun t => (hx t).trans State.outgoingAtHead_iff.symm) htail State.outgoingAtHead_not_tail
  subst same extra
  have steps := State.newChoice_eq h
  refine ⟨fun hnone => ?none, fun t ht hout => ?claims, fun t d ht hout => ?withdraws⟩
  all_goals rw [steps]; dsimp only
  case none => rw [show (s.unwind q sw.standing (s.outgoingAtHead sw)).chosen = none from hnone]; rfl
  case claims =>
    rw [show (s.unwind q sw.standing (s.outgoingAtHead sw)).chosen = some t from ht]
    dsimp only
    rw [if_neg hout]
    rfl
  case withdraws =>
    obtain ⟨sw', hst, -, htask⟩ := State.choiceState_engine h sw.standing (s.outgoingAtHead sw)
    have back : sw.outgoing.map Outgoing.task = some t := by rw [hout]; rfl
    obtain ⟨o, ho, rfl⟩ := Option.map_eq_some_iff.mp (htask.trans back)
    rw [show (s.unwind q sw.standing (s.outgoingAtHead sw)).chosen = some o.task from ht]
    dsimp only
    rw [if_pos back, State.withdraw_eq hst ho]
    rfl

/-! ### JOIN, LEAVE and the own choice (R63 (a), R72, R73) -/

section
variable {s : State} {p : Pu} {t : TaskId}

theorem State.ownChoice_none (h : (s.unwind p none .none).chosen = none) :
    s.ownChoice p = (s.unwind p none .none).st.request
      ((s.unwind p none .none).st.readyRequests (s.unwind p none .none).returned) := by
  simp only [State.ownChoice, h]

theorem State.ownChoice_some (h : (s.unwind p none .none).chosen = some t) :
    s.ownChoice p =
      let c := s.unwind p none .none
      let s1 := (c.st.beginSwitch p .unwind .readyHead).claimFor p t
      s1.request (s1.readyRequests c.returned) := by
  simp only [State.ownChoice, h]

end

/-- Settles O32. -/
theorem joinLeaveAndTheOwnChoice : Obligations.JoinLeaveAndTheOwnChoice := by
  intro s q c
  refine ⟨fun hc h => ?join, fun hc h => ?leave, fun h => ?own⟩
  case join =>
    have ok : (s.engine q).st.joinRefusal = none := by rw [h]; rfl
    exact (hc.performs (x := ()) rfl ok).trans
      (congrArg Host.Outcome.next (by rw [State.joinCommand, State.setEngineState_eq]))
  case leave =>
    exact (hc.performs (x := ()) rfl (if_pos h)).trans
      (congrArg Host.Outcome.next (by rw [State.leaveCommand, State.setEngineState_eq]))
  case own =>
    refine ⟨State.ownChoice_none, fun t ht => (State.ownChoice_some ht).trans ?_⟩
    have idle : ((s.unwind q none .none).st.engine q).st = .idle := (s.unwind_engineState q none .none).trans h
    have frame : (s.unwind q none .none).st.frame = s.frame := ((Moves.refl s).unwind q none .none).frame
    dsimp only
    rw [State.beginSwitch_idle idle, frame]

/-! ### Completion of a switch (R61 to R63) -/

section
variable (s : State) (p : Pu) (t : TaskId) (w : Option Word)

theorem State.sendOut_free : s.sendOut p ⟨t, .free⟩ w = (s.setTask t .freeRecord).settlePurge (s.task t).partition := by
  rw [← State.freeTask_eq]
  rfl

theorem State.sendOut_suspended (why : StopReason) :
    s.sendOut p ⟨t, .suspended why⟩ w =
      s.setTask t
        { s.task t with resumeWord := w.getD (s.task t).resumeWord, state := .suspended, stopReason := some why } := by
  show (s.storeWord t w).suspendAs t why = _
  rw [State.suspendAs_eq, State.storeWord_setTask, State.storeWord_task]

theorem State.sendOut_held :
    s.sendOut p ⟨t, .held⟩ w =
      s.setTask t
        { s.task t with resumeWord := w.getD (s.task t).resumeWord, state := .held, stopReason := some .budget } := by
  show (s.storeWord t w).modTask t (fun r => { r with state := .held, stopReason := some .budget }) = _
  rw [State.modTask_eq, State.storeWord_setTask, State.storeWord_task]

theorem State.sendOut_displaced :
    s.sendOut p ⟨t, .displaced⟩ w =
      (s.setTask t { s.task t with resumeWord := w.getD (s.task t).resumeWord, state := .displaced }).setEngine p
        { s.engine p with stack := t :: (s.engine p).stack } := by
  show ((s.storeWord t w).modTask t _).setStack p _ = _
  rw [State.modTask_eq, State.storeWord_setTask, State.storeWord_task, State.setStack_eq, State.setTask_engine_read]

theorem State.sendOut_readyHead :
    s.sendOut p ⟨t, .readyHead⟩ w =
      (s.setTask t
        { s.task t with
          resumeWord := w.getD (s.task t).resumeWord, state := .ready, stopReason := none }).enterQueue t .head := by
  show (s.storeWord t w).makeReady t .head = _
  rw [State.makeReady_eq, State.storeWord_setTask, State.storeWord_task]

theorem State.run_eq :
    s.run p t = ((s.leaveQueue t).setTask t
      { s.task t with
        state := .running, lastPu := some p, waitResult := none
        dispatchCount := if (s.task t).dispatchCount = 65535 then 65535 else (s.task t).dispatchCount + 1 }).setEngine p
      { s.engine p with st := .running t } := by
  simp only [State.run, State.modTask_eq, State.setEngineState_eq, State.leaveQueue_task, State.setTask_engine_read,
    State.leaveQueue_engine, satInc_16]

end

/-- Settles O33. -/
theorem completionMovesBothTasks : Obligations.CompletionMovesBothTasks := by
  intro s p t w r kept
  exact ⟨s.sendOut_free p t w, s.sendOut_suspended p t w, s.sendOut_held p t w, s.sendOut_displaced p t w,
    s.sendOut_readyHead p t w, s.run_eq p t⟩

/-! ### HANDOVER (R60) -/

section
variable {s : State} {p : Pu} {sw : Switch} {w : Option Word}

/-- The outgoing task, if there is one, at its destination. -/
def State.sentOut (p : Pu) (sw : Switch) (w : Option Word) (s : State) : State :=
  match sw.outgoing with
  | some o => s.sendOut p o w
  | none => s

theorem State.complete_claimed {t : TaskId} (h : sw.claimed = some t) :
    s.complete p sw w =
      (((s.sentOut p sw w).run p t).respond p .done .switched false
        ((s.sentOut p sw w).deliveryWords (some t) (some sw.reason))).request
          ((s.sentOut p sw w).outgoingRequests sw) := by
  unfold State.complete
  simp only [h] <;> rfl

theorem State.complete_empty (h : sw.claimed = none) :
    s.complete p sw w =
      (((((s.sentOut p sw w).setEngineState p .idle).respond p .done .idle false
        ((s.sentOut p sw w).deliveryWords none (some sw.reason))).ownChoice p)).request
          ((s.sentOut p sw w).outgoingRequests sw) := by
  unfold State.complete
  simp only [h] <;> rfl

/-- The request for an outgoing task at READY-head follows a completion; after any other destination none does. -/
theorem State.request_outgoingRequests (x out : State) (sw : Switch) :
    x.request (out.outgoingRequests sw) =
      match sw.outgoing with
      | some ⟨t, .readyHead⟩ => x.request [out.readyRequest t]
      | _ => x := by
  obtain ⟨reason, outgoing, claimed, limit, remaining⟩ := sw
  rcases outgoing with _ | ⟨t, d⟩
  · rfl
  · cases d <;> rfl

end

/-- Settles O34. -/
theorem handoverCompletesTheSwitch : Obligations.HandoverCompletesTheSwitch := by
  intro p c s sw hc h word out followed
  have issued : Issued s p 15 .puLevel c := { hc with allowed := rfl }
  have ok : (s.engine p).st.handoverRefusal = none := by rw [h]; rfl
  have completes : exec (.handover p) s = .next (s.complete p sw word) :=
    (issued.performs (x := word) rfl ok).trans (congrArg Host.Outcome.next (by simp only [State.handoverCommand, h]))
  have follows (x : State) : x.request (out.outgoingRequests sw) = followed x := State.request_outgoingRequests x out sw
  refine ⟨fun t ht => completes.trans (congrArg Host.Outcome.next ?_),
    fun hnone => completes.trans (congrArg Host.Outcome.next ?_)⟩
  · exact (State.complete_claimed ht).trans (follows _)
  · refine (State.complete_empty hnone).trans ?_
    rw [State.setEngineState_eq]
    exact follows _

end Sys2Proof.Machine
end

section
/-!
PROOFS. The PU Engines (O35 to O37): a PU taken down, the handover deadline and RESET_PU, the window re-evaluation.
-/

namespace Sys2Proof.Machine

/-! ### Taking a PU down (R69 (a) to (c), R75 (d) to (f)) -/

section
variable {s : State} {p : Pu} {t : TaskId}

theorem State.dropRunning_none (h : (s.engine p).runningTask = none) : s.dropRunning p = s := by
  simp only [State.dropRunning, h]

theorem State.dropRunning_some (h : (s.engine p).runningTask = some t) :
    s.dropRunning p =
      if (s.engine p).pendingDest = some .free then s.setTask t .freeRecord
      else s.setTask t { s.task t with state := .suspended, stopReason := some .stranded } := by
  simp only [State.dropRunning, h, State.freeTask_eq, State.suspendAs_eq]

theorem State.dropRunning_engine (s : State) (p q : Pu) : (s.dropRunning p).engine q = s.engine q := by
  cases h : (s.engine p).runningTask with
  | none => rw [State.dropRunning_none h]
  | some t =>
    rw [State.dropRunning_some h]
    split <;> rw [State.setTask_engine_read]

/-- A returned claim leaves all of the engine but its switch. -/
theorem State.returnClaim_engine (s : State) (p : Pu) :
    (s.returnClaim p).engine p = { s.engine p with st := ((s.returnClaim p).engine p).st } := by
  unfold State.returnClaim
  split
  · rw [State.makeReady_eq, State.enterQueue_engine, State.setTask_engine_read, State.modSwitch, State.modEngine_eq,
      State.engine_setEngine_same]
    cases h : (s.engine p).st <;> rfl
  · rfl

theorem State.emptyStack_engine (s : State) (p : Pu) : (s.emptyStack p).engine p = { s.engine p with stack := [] } := by
  rw [State.emptyStack, makeAllReady_engine, State.setStack_eq, State.engine_setEngine_same]

theorem State.takeDown_eq (s : State) (p : Pu) (st : EngineState) :
    s.takeDown p st =
      (((s.dropRunning p).returnClaim p).emptyStack p).setEngine p { s.engine p with st := st, stack := [] } := by
  rw [State.takeDown, State.setEngineState_eq, State.emptyStack_engine, State.returnClaim_engine, State.dropRunning_engine]

theorem State.takeDown_engine (s : State) (p : Pu) (st : EngineState) :
    (s.takeDown p st).engine p = { s.engine p with st := st, stack := [] } := by
  rw [State.takeDown_eq, State.engine_setEngine_same]

end

/-! ### Ending an outstanding command (R47, R191) -/

section
variable {s : State} {p : Pu} {st : Status}

theorem State.endOutstanding_idle (h : ∀ c, (s.port p).state ≠ .busy c) : s.endOutstanding p st = s := by
  unfold State.endOutstanding
  split
  · exact absurd ‹_› (h _)
  · rfl

theorem State.endOutstanding_busy {c : Captured} (h : (s.port p).state = .busy c) :
    s.endOutstanding p st =
      { s.respond p st .none false [] with partitions := s.partitions.map (PartitionRecord.unport p) } := by
  simp only [State.endOutstanding, h]

theorem PartitionRecord.unport_some {r : PartitionRecord} {g : Purge} (h : r.purge = some g) :
    (r.unport p).purge = some (if g.port = some p then { g with port := none } else g) := by
  simp only [PartitionRecord.unport, h]
  split
  · rfl
  · exact h

theorem PartitionRecord.unport_none {r : PartitionRecord} (h : r.purge = none) : r.unport p = r := by
  simp only [PartitionRecord.unport, h]

theorem State.endOutstanding_part {c : Captured} (h : (s.port p).state = .busy c) (k : Partition) :
    (s.endOutstanding p st).part k = (s.part k).unport p := by
  rw [State.endOutstanding_busy h]
  exact Vector.getElem_map ..

end

/-- Settles O35. -/
theorem takingAPuDownReturnsItsWork : Obligations.TakingAPuDownReturnsItsWork := by
  intro s p st status dropped s1 s'
  have drops : s.dropRunning p = dropped := by
    show _ = (match (s.engine p).runningTask with
      | some t => _
      | none => _ : State)
    cases h : (s.engine p).runningTask with
    | none => exact State.dropRunning_none h
    | some t => exact State.dropRunning_some h
  refine ⟨by rw [State.takeDown_eq, drops], State.endOutstanding_idle, fun c h => ⟨?port, fun k => ?part⟩⟩
  case port =>
    show ({ s.endOutstanding p status with partitions := s.partitions } : State) = _
    rw [State.endOutstanding_busy h]
    rfl
  case part =>
    obtain ⟨members, readies⟩ := Settles.unport_members p (s.part k)
    have part : s'.part k = (s.part k).unport p := State.endOutstanding_part h k
    rw [part]
    exact ⟨Settles.unport_halted p _, members, readies, fun g hg => PartitionRecord.unport_some hg,
      fun hn => by rw [PartitionRecord.unport_none hn, hn]⟩

/-! ### The handover deadline and RESET_PU (R68, R69, R75) -/

section
variable {s : State} {p q : Pu} {sw : Switch} {n : BitVec 8}

theorem Engine.timeLeft_switching {e : Engine} (h : e.st = .switching sw) : e.timeLeft = some sw.remaining :=
  Engine.timeLeft_iff.mpr ⟨sw, h, rfl⟩

theorem exec_deadline_stopped (hr : s.pins.resetLow = false) (h : s.swreq p = false) :
    exec (.handoverDeadlineExpiry p) s = .next s := by
  have stopped : (s.engine p).timeLeft = none := Option.eq_none_iff_forall_ne_some.mpr fun n hn => by
    obtain ⟨sw, hsw, -⟩ := Engine.timeLeft_iff.mp hn
    exact absurd (State.swreq_iff.mpr ⟨sw, hsw⟩) (by rw [h]; decide)
  refine congrArg Host.Outcome.next ((State.awake_high hr).trans ?_)
  simp only [stopped]

theorem exec_deadline_running (hr : s.pins.resetLow = false) (h : (s.engine p).st = .switching sw) :
    exec (.handoverDeadlineExpiry p) s =
      .next (if s.noneSooner sw.remaining then (s.elapse sw.remaining).expireDeadline p else s) := by
  refine congrArg Host.Outcome.next ((State.awake_high hr).trans ?_)
  simp only [Engine.timeLeft_switching h]

/-- Time that passes on a timer leaves the engine's tasks and counts. -/
theorem Engine.elapse_tasks (e : Engine) (n : BitVec 8) :
    (e.elapse n).held = e.held ∧ (e.elapse n).runningTask = e.runningTask ∧ (e.elapse n).faultCount = e.faultCount := by
  by_cases h : ∃ sw, e.st = .switching sw
  · obtain ⟨sw, hsw⟩ := h
    rw [Engine.elapse_switching n hsw]
    simp [Engine.held, Engine.claimedTask, Engine.runningTask, hsw]
  · rw [Engine.elapse_other n (not_exists.mp h)]
    exact ⟨rfl, rfl, rfl⟩

theorem State.runningPartition_none (h : (s.engine p).runningTask = none) : s.runningPartition p = none := by
  rw [State.runningPartition, h]
  rfl

theorem State.runningPartition_some {t : TaskId} (h : (s.engine p).runningTask = some t) :
    s.runningPartition p = some (s.task t).partition := by
  rw [State.runningPartition, h]
  rfl

/-- An expiry, with what the engine held read before the time passed. -/
theorem State.expireDeadline_elapsed (s : State) (p : Pu) (n : BitVec 8) :
    (s.elapse n).expireDeadline p =
      let down := (s.elapse n).takeDown p .faulted
      let faulted := (down.setEngine p { down.engine p with faultCount := satInc (s.engine p).faultCount }).latch (.puFault p)
      (faulted.endOutstanding p .puFaulted).afterTakeDown (s.engine p).held (s.runningPartition p) := by
  obtain ⟨hheld, hrunning, hfaults⟩ := Engine.elapse_tasks (s.engine p) n
  have hpart : (s.elapse n).runningPartition p = s.runningPartition p := by
    unfold State.runningPartition
    rw [State.elapse_engine_read, hrunning]
    rfl
  have hcount : (((s.elapse n).takeDown p .faulted).engine p).faultCount = (s.engine p).faultCount := by
    rw [State.takeDown_engine, State.elapse_engine_read, hfaults]
  unfold State.expireDeadline
  rw [State.modEngine_eq, hcount, State.elapse_engine_read, hheld, hpart]

theorem puArgs_some {c : Captured} {q : Pu} (h : (c.arg 0).toNat = q.val) : puArgs c = some q := asFin_some q h

end

/-- Settles O36: what an expiry and RESET_PU leave is the PU taken down, its port answered and its requests made. -/
theorem deadlineExpiryAndResetPu : Obligations.DeadlineExpiryAndResetPu := by
  intro p s
  refine ⟨exec_deadline_stopped, fun sw q sw' hr h hq hlt => ?sooner, fun sw hr h hleast => ?expires,
    fun q c hc hq hne => ?reset⟩
  case sooner =>
    have sooner : s.noneSooner sw.remaining = false := Bool.eq_false_iff.mpr fun hnone =>
      absurd (State.noneSooner_iff.mp hnone q sw' hq) (BitVec.not_le.mpr hlt)
    rw [exec_deadline_running hr h, sooner]
    rfl
  case expires =>
    have expired := (exec_deadline_running hr h).trans
      (congrArg Host.Outcome.next (if_pos (State.noneSooner_iff.mpr hleast)))
    rw [State.expireDeadline_elapsed] at expired
    refine ⟨fun hnone => ?_, fun t ht => ?_⟩
    · rw [expired, State.runningPartition_none hnone]
      rfl
    · rw [expired, State.runningPartition_some ht]
      rfl
  case reset =>
    have taken : exec (.resetPu p) s = .next (s.resetPuCommand p q) := hc.performs (puArgs_some hq) (if_neg hne)
    refine ⟨fun hnone => ?_, fun t ht => ?_⟩
    · rw [taken, State.resetPuCommand, State.runningPartition_none hnone]
      rfl
    · rw [taken, State.resetPuCommand, State.runningPartition_some ht]
      rfl

/-! ### The window re-evaluation (R164 to R167) -/

section
variable {s : State} {p : Pu} {t c n : TaskId} {sw : Switch}

theorem State.windowReEvaluate_first (h : (s.engine p).working = true) :
    s.windowReEvaluate p true = (s.urgentArrival p).windowReEvaluate p false := by
  simp only [State.windowReEvaluate, Bool.true_and, h, if_true, Bool.false_and, Bool.false_eq_true, if_false]

theorem State.windowReEvaluate_resting (h : (s.engine p).working = false) :
    s.windowReEvaluate p true = s.windowReEvaluate p false := by
  simp only [State.windowReEvaluate, h, Bool.and_false]

theorem State.windowReEvaluate_noWindow (h : s.frame.dispatching = false) : s.windowReEvaluate p false = s := by
  simp only [State.windowReEvaluate, Bool.false_and, Bool.false_eq_true, if_false, h]

/-- While a window is in force a re-evaluation goes by the state of the engine (R165, R166). -/
theorem State.windowReEvaluate_window (h : s.frame.dispatching = true) :
    s.windowReEvaluate p false =
      match (s.engine p).st with
      | .idle => s.ownChoice p
      | .running t => s.reEvaluateRunning p t
      | .switching sw => s.reEvaluateSwitching p sw
      | .offline => s
      | .faulted => s := by
  simp only [State.windowReEvaluate, Bool.false_and, Bool.false_eq_true, if_false, h, if_true] <;> rfl

theorem State.reEvaluateRunning_handler (h : (s.task t).cls = .handler) : s.reEvaluateRunning p t = s :=
  if_pos (State.isHandler_iff.mpr h)

theorem State.reEvaluateRunning_normal (h : (s.task t).cls = .normal) :
    s.reEvaluateRunning p t =
      if s.mapAllows p t then
        match s.pickBelow p .none (s.prio t) with
        | some c => (s.beginSwitch p .preempt .readyHead).claimFor p c
        | none => s
      else s.switchOut p .window .readyHead :=
  if_neg (by rw [State.isHandler_false_iff.mpr h]; decide)

theorem State.reEvaluateSwitching_empty (h : sw.claimed = none) : s.reEvaluateSwitching p sw = s.newChoice p := by
  simp only [State.reEvaluateSwitching, h]

theorem State.reEvaluateSwitching_urgent (h : sw.claimed = some c)
    (hu : (s.underUrgentWork p || (s.engine p).pendingDest = some .displaced) = true) :
    s.reEvaluateSwitching p sw = s := by
  simp only [State.reEvaluateSwitching, h, hu, if_true]

/-- A filled slot of a PU that is not under urgent work (R166 (b), (c)). -/
theorem State.reEvaluateSwitching_claimed (h : sw.claimed = some c)
    (hu : (s.underUrgentWork p || (s.engine p).pendingDest = some .displaced) = false) :
    s.reEvaluateSwitching p sw =
      if s.mapAllows p c then
        match s.pickBelow p (s.outgoingAtHead sw) (s.prio c) with
        | none => s
        | some n =>
          if sw.outgoing.map Outgoing.task = some n then
            ((s.returnClaim p).withdraw p).request [s.readyRequest c]
          else s.retarget p n
      else ((s.returnClaim p).newChoice p).request [s.readyRequest c] := by
  simp only [State.reEvaluateSwitching, h, hu, Bool.false_eq_true, if_false] <;> rfl

/-- Urgent work on a SWITCHING PU (R82): its stack, a pending push, or a handler in one of its slots. -/
theorem State.switchingUrgent_iff (h : (s.engine p).st = .switching sw) :
    (s.underUrgentWork p || decide ((s.engine p).pendingDest = some .displaced)) = true ↔
      (s.engine p).stack ≠ [] ∨ (s.engine p).pendingDest = some .displaced ∨
        (∃ t, (s.engine p).runningTask = some t ∧ (s.task t).cls = .handler) ∨
        ∃ t, sw.claimed = some t ∧ (s.task t).cls = .handler := by
  rw [← not_iff_not, Bool.not_eq_true, Bool.or_eq_false_iff, State.underUrgentWork_false_iff,
    Engine.claimedTask_switching h, decide_eq_false_iff_not]
  push Not
  tauto

/-- After the claim is returned, the outgoing task can be taken back to RUNNING. -/
theorem State.withdraw_returned {o : Outgoing} (h : (s.engine p).st = .switching sw) (hc : sw.claimed = some c)
    (ho : sw.outgoing = some o) :
    (s.returnClaim p).withdraw p = (s.returnClaim p).setEngine p { s.engine p with st := .running o.task } := by
  have hengine : (s.returnClaim p).engine p = { s.engine p with st := .switching { sw with claimed := none } } := by
    rw [State.returnClaim_eq h hc, State.enterQueue_engine, State.setTask_engine_read, State.engine_setEngine_same]
  rw [State.withdraw_eq (congrArg Engine.st hengine) ho, hengine]

end

/-- Settles O37, by the state of the engine and what its slots hold. -/
theorem windowReEvaluationFollowsTheTable : Obligations.WindowReEvaluationFollowsTheTable := by
  intro s p limit entry allows
  refine ⟨fun former nth rest h => congrArg Host.Outcome.next (h.takes _), State.windowReEvaluate_first,
    State.windowReEvaluate_resting, fun h => ?noWindow, fun hwindow => ?window⟩
  case noWindow =>
    refine State.windowReEvaluate_noWindow (Bool.eq_false_iff.mpr fun hd => ?_)
    rcases FrameUnit.dispatching_iff.mp hd with hf | hf <;> rw [hf] at h <;> simp at h
  case window =>
    have dispatching := FrameUnit.dispatching_iff.mpr hwindow
    have allows_iff (t : TaskId) : s.mapAllows p t = true ↔ allows t := State.mapAllows_iff dispatching
    have table := State.windowReEvaluate_window (p := p) dispatching
    refine ⟨fun h => ?idle, fun h => ?absent, fun t h => ⟨fun hcls => ?handler, fun hcls hno => ?leaves,
      fun hcls hyes => ?stays⟩,
      fun sw h => ?switching⟩
    case idle => rw [table, h]
    case absent => rcases h with h | h <;> rw [table, h]
    all_goals simp only [h] at table
    case handler => rw [table, State.reEvaluateRunning_handler hcls]
    case leaves =>
      rw [table, State.reEvaluateRunning_normal hcls, if_neg fun ha => hno ((allows_iff t).mp ha), State.askOut_running h]
    case stays =>
      rw [table, State.reEvaluateRunning_normal hcls, if_pos ((allows_iff t).mpr hyes), State.beginSwitch_running h] <;> rfl
    case switching =>
      intro urgent
      have urgent_iff := State.switchingUrgent_iff h
      refine ⟨fun hnone => ?_, fun hsome hurgent => ?_, fun c hcalm hc hno => ?_, fun c hcalm hc hyes => ?_⟩
      · rw [table, State.reEvaluateSwitching_empty hnone]
      · obtain ⟨c, hc⟩ := Option.ne_none_iff_exists'.mp hsome
        rw [table, State.reEvaluateSwitching_urgent hc (urgent_iff.mpr hurgent)]
      all_goals
        have normal : (s.task c).cls = .normal :=
          State.isHandler_false_iff.mp (Bool.eq_false_iff.mpr fun hh =>
            hcalm (.inr (.inr (.inr ⟨c, hc, State.isHandler_iff.mp hh⟩))))
        have claimed := State.reEvaluateSwitching_claimed hc (Bool.eq_false_iff.mpr fun hu => hcalm (urgent_iff.mp hu))
        rw [State.readyRequest_normal normal] at claimed
      · rw [table, claimed, if_neg fun ha => hno ((allows_iff c).mp ha)]
      · rw [if_pos ((allows_iff c).mpr hyes)] at claimed
        intro best
        refine ⟨fun hbest => ?_, fun n hbest hout => ?_, fun n hbest hout => ?_⟩
        all_goals
          change s.pickBelow p (s.outgoingAtHead sw) (s.prio c) = _ at hbest
          rw [table, claimed, hbest]
        · obtain ⟨o, ho, rfl⟩ := Option.map_eq_some_iff.mp hout
          refine (if_pos hout).trans ?_
          rw [State.withdraw_returned h hc ho]
        · exact if_neg hout

end Sys2Proof.Machine
end

section
/-!
PROOFS. The Channel Unit and the Delay List (O38 to O40): arrivals, the channel commands, wakes and the order of the lists.
-/

namespace Sys2Proof.Machine

/-! ### Arrivals (R108 to R110) -/

section
variable {s : State} {ch : ChannelId} {n m : Nat}

/-- An arrival is counted at channel ch and m of its units are kept; surplus units latch the flags. -/
def State.keepUnits (ch : ChannelId) (m : Nat) (s : State) : State :=
  let r := s.channel ch
  let full : Bool := 255 < r.pendingCount.toNat + m
  let s1 := s.setChannel ch
    { r with
      arrivalCount := r.arrivalCount + 1
      pendingCount := if full then 255 else r.pendingCount + BitVec.ofNat 8 m
      saturated := if full then true else r.saturated }
  if full then s1.latch .pendingSaturated else s1

/-- An arrival counts and keeps its units, then wakes. -/
theorem State.arrive_keepUnits (s : State) (ch : ChannelId) (n : Nat) :
    s.arrive ch n = (s.keepUnits ch ((s.channel ch).keptOf n)).wakeAll (fun _ _ => .signalled) ((s.channel ch).wokenBy n) := by
  rw [State.arrive_eq, State.keepUnits]
  by_cases h : 255 < (s.channel ch).pendingCount.toNat + (s.channel ch).keptOf n <;> simp [h]

theorem State.wakeAll_nil (result : State → TaskId → WaitResult) (s : State) : s.wakeAll result [] = s := rfl

theorem Channel.keptOf_masked {r : Channel} (h : r.masked = true) (n : Nat) :
    r.keptOf n = if r.disposition = .drop then 0 else n := by
  simp only [Channel.keptOf, h, if_true]
  cases r.disposition <;> rfl

theorem Channel.keptOf_unmasked {r : Channel} (h : r.masked = false) (n : Nat) :
    r.keptOf n = if r.mode = .signal then n - r.waiters.length else 0 := by
  simp only [Channel.keptOf, h, Bool.false_eq_true, if_false]
  cases r.mode <;> rfl

theorem Channel.wokenBy_eq (r : Channel) (n : Nat) :
    r.wokenBy n = if r.masked then [] else if r.mode = .signal then r.waiters.take n else r.waiters := by
  unfold Channel.wokenBy
  cases r.mode <;> rfl

theorem State.mayPost_iff {p : Pu} :
    s.mayPost p ch = true ↔
      s.effectivePrivilege p = some .supervisor ∨
        ∃ t, (s.engine p).runningTask = some t ∧ (s.channel ch).postRights.getLsbD (s.task t).partition.val = true := by
  unfold State.mayPost State.issuerTask
  cases (s.engine p).runningTask <;> simp

theorem EdgeSel.takes_iff {e : EdgeSel} {level : Bool} :
    e.takes level = true ↔ e = .both ∨ (e = .rising ∧ level = true) ∨ (e = .falling ∧ level = false) := by
  cases e <;> simp [EdgeSel.takes]

theorem withLevel_bit (n m : Line) (level : Bool) (v : BitVec 16) :
    (withLevel n level v).getLsbD m.val = if m = n then level else v.getLsbD m.val := by
  have bound : m.val < 16 := m.isLt
  cases level with
  | true =>
    rw [withLevel, if_pos rfl, BitVec.getLsbD_or, line_bit]
    by_cases h : m = n <;> simp only [h, decide_true, decide_false, Bool.or_true, Bool.or_false, if_true, if_false]
  | false =>
    rw [withLevel, if_neg (by decide), BitVec.getLsbD_and, BitVec.getLsbD_not, line_bit, decide_eq_true bound]
    by_cases h : m = n <;>
      simp only [h, decide_true, decide_false, Bool.not_true, Bool.not_false, Bool.and_false, Bool.and_true, if_true, if_false]

end

/-- Settles O38: what is kept and who is woken by mask and mode, then the two ways an arrival comes about. -/
theorem arrivalFollowsTheTable : Obligations.ArrivalFollowsTheTable := by
  intro s ch n r keep waking woken
  have arrives : s.arrive ch n = waking (r.wokenBy n) (keep (r.keptOf n)) := s.arrive_keepUnits ch n
  have wakes : r.wokenBy n = woken := r.wokenBy_eq n
  refine ⟨fun hm hd => ?drops, fun hm hd => ?holds, fun hm hmode => ?signal, fun hm hmode => ?pulse,
    fun p c hc hch hsoft hn h1 h255 hpost => ?post, fun line level hline => ?line⟩
  case drops => rw [arrives, wakes, Channel.keptOf_masked hm, if_pos hd, show woken = [] from if_pos hm]; rfl
  case holds =>
    rw [arrives, wakes, Channel.keptOf_masked hm, if_neg (by rw [hd]; decide), show woken = [] from if_pos hm]; rfl
  case signal => rw [arrives, Channel.keptOf_unmasked hm, if_pos hmode, Channel.wokenBy_eq, if_neg (by simp [hm]), if_pos hmode]
  case pulse =>
    have hno : r.mode ≠ .signal := by rw [hmode]; decide
    rw [arrives, Channel.keptOf_unmasked hm, if_neg hno, Channel.wokenBy_eq, if_neg (by simp [hm]), if_neg hno]
  case post =>
    intro s'
    have args := postArgs_some ch hch hsoft (hn ▸ h1) (hn ▸ h255)
    have count : ((c.arg 1).setWidth 8).toNat = n := by
      rw [BitVec.toNat_setWidth, hn]
      exact Nat.mod_eq_of_lt (by omega)
    refine (hc.performs args (if_pos (State.mayPost_iff.mpr hpost))).trans (congrArg Host.Outcome.next ?_)
    simp only [State.postCommand, count, Channel.wokenBy_eq]
    rfl
  case line =>
    intro s1 taken
    have line_channel : Line.channel line = ch := Fin.ext hline.symm
    have edge_iff : (s.pins.resetLow = false ∧ s.pins.events.getLsbD line.val ≠ level ∧
        (s.channel (Line.channel line)).edge.takes level = true) ↔ taken := by rw [line_channel, EdgeSel.takes_iff]
    refine ⟨fun h => ?_, fun h => ?_, fun m => withLevel_bit line m level _⟩
    · exact congrArg Host.Outcome.next ((if_pos (edge_iff.mpr h)).trans (by rw [line_channel]))
    · exact congrArg Host.Outcome.next (if_neg fun h' => h (edge_iff.mp h'))

/-! ### MASK, UNMASK and BIND (R117 to R120) -/

section
variable {c : Captured} {r : Channel}

theorem modeOf_code {v : Nat} {m : ChannelMode} (h : v = m.code) : modeOf v = some m := by
  subst h; cases m <;> rfl

theorem edgeOf_code {v : Nat} {e : EdgeSel} (h : v = e.code) : edgeOf v = some e := by
  subst h; cases e <;> rfl

theorem dispositionOf_code {v : Nat} {d : Disposition} (h : v = d.code) : dispositionOf v = some d := by
  subst h; cases d <;> rfl

theorem bindArgs_some {ch : ChannelId} {mode : ChannelMode} {edge : EdgeSel} {disp : Disposition}
    (hch : (c.arg 0).toNat = ch.val) (hmode : (c.arg 1).toNat = mode.code) (hedge : (c.arg 2).toNat = edge.code)
    (hdisp : (c.arg 4).toNat = disp.code) :
    bindArgs c = some ⟨ch, mode, edge, (c.arg 3).getLsbD 0, disp, setArg (c.arg 5)⟩ := by
  unfold bindArgs
  rw [channelArg_some hch, modeOf_code hmode, edgeOf_code hedge, dispositionOf_code hdisp]
  rfl

theorem Channel.unmasked_open (h : r.masked = false) : r.unmasked = r ∧ r.wokenByUnmask = [] := by
  simp [Channel.unmasked, Channel.wokenByUnmask, h]

theorem Channel.unmasked_signal (h : r.masked = true) (hm : r.mode = .signal) :
    r.wokenByUnmask = r.waiters.take r.pendingCount.toNat ∧
      r.unmasked = { r with
        masked := false, pendingCount := r.pendingCount - BitVec.ofNat 8 (r.waiters.take r.pendingCount.toNat).length } := by
  simp [Channel.unmasked, Channel.wokenByUnmask, h, hm]

theorem Channel.unmasked_pulse (h : r.masked = true) (hm : r.mode = .pulse) :
    r.wokenByUnmask = (if r.pendingCount = 0 then [] else r.waiters) ∧
      r.unmasked = { r with masked := false, pendingCount := 0 } := by
  simp [Channel.unmasked, Channel.wokenByUnmask, h, hm]

theorem Channel.bound_eq (a : BindArgs) (r : Channel) :
    r.bound a = { r with
      mode := a.mode, masked := a.masked, disposition := a.disposition, pendingCount := 0, saturated := false
      edge := if a.channel.val < 16 then a.edge else .rising
      postRights := if a.channel.val < 16 then 0 else a.postRights } := by
  simp [Channel.bound, isLine]

theorem State.setChannel_same (s : State) (ch : ChannelId) : s.setChannel ch (s.channel ch) = s := by
  unfold State.setChannel State.channel
  exact congrArg (fun v => { s with channels := v }) (put_get s.channels ch)

end

/-- Settles O39. -/
theorem channelCommandsSetUpTheChannel : Obligations.ChannelCommandsSetUpTheChannel := by
  intro p c s ch hch r waking
  have arg : channelArgs c = some ch := channelArg_some hch
  refine ⟨fun hc => ?mask, fun hc => ?unmask, fun mode edge disp hc hmode hedge hdisp => ?bind⟩
  case mask =>
    exact (hc.performs arg rfl).trans (congrArg Host.Outcome.next (by rw [State.maskCommand, State.modChannel_eq]))
  case unmask =>
    have done : exec (.unmask p) s = .next ((waking .signalled r.wokenByUnmask (s.setChannel ch r.unmasked)).answer p
        [low ch.val, low r.wokenByUnmask.length, low r.unmasked.pendingCount.toNat]) :=
      (hc.performs arg rfl).trans (congrArg Host.Outcome.next (by rw [State.unmaskCommand, State.modChannel_eq]; rfl))
    refine ⟨fun hm => ?_, fun hm hmode => ?_, fun hm hmode => ?_⟩
    · obtain ⟨hr, hw⟩ := Channel.unmasked_open hm
      rw [done, hr, hw, State.setChannel_same]
      rfl
    · obtain ⟨hw, hr⟩ := Channel.unmasked_signal hm hmode
      rw [done, hw, hr]
    · obtain ⟨hw, hr⟩ := Channel.unmasked_pulse hm hmode
      rw [done, hw, hr]
      rfl
  case bind =>
    refine (hc.performs (bindArgs_some hch hmode hedge hdisp) rfl).trans (congrArg Host.Outcome.next ?_)
    rw [State.bindCommand, State.modChannel_eq, Channel.bound_eq]
    rfl

/-! ### Wakes and the order of the lists (R105, R106, R112, R139 to R142) -/

section
variable {s : State} {t : TaskId}

theorem State.waiterKey_eq (s : State) (u : TaskId) :
    s.waiterKey u = (if (s.task u).cls = .handler then 0 else 8) + (s.task u).priority.val := by
  simp [State.waiterKey, State.isHandler]

theorem State.enterWaiters_eq (s : State) (ch : ChannelId) (t : TaskId) :
    s.enterWaiters ch t =
      (s.setChannel ch { s.channel ch with waiters := insertLast s.waiterKey t (s.channel ch).waiters }).setTask t
        { s.task t with waitChannel := some ch } := by
  rw [State.enterWaiters, State.modTask_eq, State.modChannel_eq, State.setChannel_task_read]

theorem State.enterDelayList_eq (s : State) (t : TaskId) (ticks : BitVec 32) :
    s.enterDelayList t ticks =
      State.setTask t { s.task t with wakeTick := some (s.frame.tickCounter + ticks) }
        { s with delayList := insertDue s.wakeOf t (s.frame.tickCounter + ticks) s.delayList } := by
  rw [State.enterDelayList, State.modTask_eq]
  rfl

theorem State.expiryResult_eq (s : State) (t : TaskId) :
    s.expiryResult t = if (s.task t).waitChannel = none then .elapsed else .timeout := by
  unfold State.expiryResult
  cases (s.task t).waitChannel <;> rfl

end

/-- Settles O40. -/
theorem wakesAndWaitListsKeepTheirOrder : Obligations.WakesAndWaitListsKeepTheirOrder := by
  intro s t
  refine ⟨fun result => s.wake_eq t result, fun ch => ?waiters, fun ticks => ?delays, fun counter rest h => ?tick⟩
  case waiters =>
    intro key
    have same : s.waiterKey = key := funext s.waiterKey_eq
    obtain ⟨before, after, hsplit, hinsert, hbefore, hafter⟩ := insertLast_split key t (s.channel ch).waiters
    exact ⟨before, after, hsplit, hbefore, hafter, by rw [State.enterWaiters_eq, same, hinsert]⟩
  case delays =>
    intro wake
    obtain ⟨before, after, hsplit, hinsert, hbefore, hafter⟩ := insertDue_split s.wakeOf t wake s.delayList
    exact ⟨before, after, hsplit, hbefore, hafter, by rw [State.enterDelayList_eq, hinsert]⟩
  case tick =>
    intro due s1
    have result : State.expiryResult = fun x u => if (x.task u).waitChannel = none then .elapsed else .timeout :=
      funext fun x => funext x.expiryResult_eq
    refine congrArg Host.Outcome.next ((h.takes _).trans ?_)
    show State.wakeAll State.expiryResult due { s with requests := rest } = _
    rw [result]
    rfl

end Sys2Proof.Machine
end

section
/-!
PROOFS. The self commands (O41, O42), on a RUNNING PU and on a SWITCHING one.
-/

namespace Sys2Proof.Machine

/-! ### Self commands on a RUNNING PU (R126, R127, R131 to R137) -/

section
variable {s : State} {p : Pu} {t : TaskId} {w : Word} {sw : Switch} {o : Outgoing}

theorem State.storeWord_some (s : State) (t : TaskId) (w : Word) :
    s.storeWord t (some w) = s.setTask t { s.task t with resumeWord := w } :=
  s.modTask_eq t fun r => { r with resumeWord := w }

theorem State.leaveBy_running (h : (s.engine p).st = .running t) (place : State → State) :
    s.leaveBy p t w place = State.deliver p ((place (s.storeWord t (some w))).unwind p none .none) none false [] := by
  simp only [State.leaveBy, h]

theorem State.waitCommand_running (h : (s.engine p).st = .running t) (a : ChannelId × BitVec 32) :
    s.waitCommand p t w a =
      if (s.channel a.1).givesUnit then s.waitContinue p t w a.1 else s.leaveBy p t w (State.enlist t a.1 a.2) := by
  simp only [State.waitCommand, h]

theorem State.takeUnit_eq (s : State) (ch : ChannelId) :
    s.takeUnit ch = s.setChannel ch { s.channel ch with pendingCount := (s.channel ch).pendingCount - 1 } :=
  State.modChannel_eq ..

/-- The unit is taken, and the task's record holds the word and no wait result (R134). -/
theorem State.waitContinue_eq (s : State) (p : Pu) (t : TaskId) (w : Word) (ch : ChannelId) :
    s.waitContinue p t w ch =
      ((s.setChannel ch { s.channel ch with pendingCount := (s.channel ch).pendingCount - 1 }).setTask t
        { s.task t with resumeWord := w, waitResult := none }).respond p .done .continue false
          [low t.val, w, low 1, low 0] := by
  rw [State.waitContinue, State.modTask_eq, State.storeWord_setTask, State.storeWord_task, State.takeUnit_eq]
  rfl

theorem State.yieldCommand_running (h : (s.engine p).st = .running t) : s.yieldCommand p t w = s.yieldRunning p t w := by
  simp only [State.yieldCommand, h]

theorem State.deliver_eq (p : Pu) (choice : Choice) (why : Option SwitchReason) (sup : Bool) (entered : List TaskId) :
    State.deliver p choice why sup entered =
      let ran : State := match choice.chosen with
        | some u => (choice.st.run p u).respond p .done .switched sup
            [low u.val, (choice.st.task u).resumeWord, low (waitResultCode (choice.st.task u).waitResult),
              low (switchReasonCode why)]
        | none => (choice.st.setEngine p { choice.st.engine p with st := .idle }).respond p .done .idle sup
            [low 255, 0, 0, low (switchReasonCode why)]
      ran.request (ran.readyRequests (entered ++ choice.returned)) := by
  obtain ⟨st, chosen, returned, passed⟩ := choice
  cases chosen <;> rfl

end

/-- Settles O41. -/
theorem selfCommandsOnARunningPu : Obligations.SelfCommandsOnARunningPu := by
  intro p c s t h stored next
  have hrun := Engine.runningTask_running h
  refine ⟨fun ch timeout hc hch htime hmax => ?wait, fun ticks hc hticks hmin hmax => ?delay, fun hc => ?finish,
    fun hc => ?yield, State.deliver_eq p⟩
  case wait =>
    intro r gives listed
    have waits := (hc.selfPerforms hrun (waitArgs_some hch htime hmax)
      (selfPerform := fun c t a => s.waitCommand p t (c.arg 0) a)).trans
        (congrArg Host.Outcome.next (State.waitCommand_running h _))
    refine ⟨fun hg => waits.trans (congrArg Host.Outcome.next ?_), fun hg => waits.trans (congrArg Host.Outcome.next ?_)⟩
    · rw [if_pos (Channel.givesUnit_iff.mpr hg), State.waitContinue_eq]
    · rw [if_neg fun hg' => hg (Channel.givesUnit_iff.mp hg'), State.leaveBy_running h, State.enlist_storeWord]
  case delay =>
    refine (hc.selfPerforms hrun (delayArgs_some hticks hmin hmax)
      (selfPerform := fun c t ticks => s.leaveBy p t (c.arg 0) (State.startDelay t ticks))).trans
        (congrArg Host.Outcome.next ?_)
    rw [State.leaveBy_running h, State.startDelay_storeWord]
  case finish =>
    refine (hc.selfPerforms (args := wordArgs) hrun rfl
      (selfPerform := fun _ t w => s.leaveBy p t w (State.finish t))).trans (congrArg Host.Outcome.next ?_)
    rw [State.leaveBy_running h, State.finish_storeWord]
  case yield =>
    intro choice
    have yields := (hc.selfPerforms (args := wordArgs) hrun rfl (selfPerform := fun _ t w => s.yieldCommand p t w)).trans
      (congrArg Host.Outcome.next (State.yieldCommand_running h))
    have same : (s.storeWord t (some (c.arg 0))).unwind p none (.tail t) = choice := by rw [State.storeWord_some]
    refine ⟨fun hchosen => yields.trans (congrArg Host.Outcome.next ?_),
      fun hchosen => yields.trans (congrArg Host.Outcome.next ?_)⟩
    all_goals
      unfold State.yieldRunning
      dsimp only
      rw [same]
    · rw [if_pos hchosen]
      rfl
    · rw [if_neg hchosen]

/-! ### Self commands on a SWITCHING PU (R59, R128, R129, R135) -/

section
variable {s : State} {p : Pu} {t : TaskId} {w : Word} {sw : Switch} {d : Dest}

theorem State.leaveBy_switching (h : (s.engine p).st = .switching sw) (ho : sw.outgoing = some ⟨t, d⟩) {u : TaskId}
    (place : State → State) :
    s.leaveBy p u w place =
      if d.supersedes then s.supersede p sw ⟨t, d⟩ w else s.replaceDest p sw ⟨t, d⟩ w place := by
  simp only [State.leaveBy, h, ho]

theorem State.waitCommand_switching (h : (s.engine p).st = .switching sw) (ho : sw.outgoing = some ⟨t, d⟩) {u : TaskId}
    (a : ChannelId × BitVec 32) : s.waitCommand p u w a = s.waitSwitching p sw ⟨t, d⟩ w a := by
  simp only [State.waitCommand, h, ho]

theorem State.yieldCommand_switching (h : (s.engine p).st = .switching sw) (ho : sw.outgoing = some ⟨t, d⟩)
    {u : TaskId} : s.yieldCommand p u w = s.yieldSwitching p sw ⟨t, d⟩ w := by
  simp only [State.yieldCommand, h, ho]

/-- A superseded self command: its task, INTERRUPTED unless it becomes FREE, goes to the pending destination. -/
theorem State.supersede_eq (s : State) (p : Pu) (sw : Switch) (t : TaskId) (d : Dest) (w : Word) :
    s.supersede p sw ⟨t, d⟩ w =
      State.finishSwitch p sw true []
        ((if d = .free then s else s.setTask t { s.task t with waitResult := some .interrupted }).sendOut p
          ⟨t, d⟩ (some w)) := by
  rw [State.supersede, State.modTask_eq]

theorem State.yieldSwitching_superseded (h : d.supersedes = true) :
    s.yieldSwitching p sw ⟨t, d⟩ w = s.supersede p sw ⟨t, d⟩ w := by
  cases d with
  | readyHead => exact absurd h (by decide)
  | displaced => exact absurd h (by decide)
  | free => rfl
  | suspended why => rfl
  | held => rfl

theorem State.signal_eq (s : State) (t : TaskId) (ch : ChannelId) :
    s.signal t ch =
      (s.setChannel ch { s.channel ch with pendingCount := (s.channel ch).pendingCount - 1 }).setTask t
        { s.task t with waitResult := some .signalled } := by
  rw [State.signal, State.modTask_eq, State.takeUnit_eq, State.setChannel_task_read]

end

/-- Settles O42. -/
theorem selfCommandsOnASwitchingPu : Obligations.SelfCommandsOnASwitchingPu := by
  intro p c s sw t d h ho finish higher superseded stored replaced
  have hrun : (s.engine p).runningTask = some t := by rw [Engine.runningTask_switching h, ho]; rfl
  have higher_iff : d.supersedes = true ↔ higher := Dest.supersedes_iff
  have supersedes : s.supersede p sw ⟨t, d⟩ (c.arg 0) = superseded := s.supersede_eq p sw t d (c.arg 0)
  have replaces (place : State → State) :
      s.replaceDest p sw ⟨t, d⟩ (c.arg 0) place = replaced (place (s.storeWord t (some (c.arg 0)))) := rfl
  refine ⟨fun hc => ?yield, fun ch timeout hc hch htime hmax => ?wait, fun ticks hc hticks hmin hmax => ?delay,
    fun hc => ?finish⟩
  case yield =>
    have yields := (hc.selfPerforms (args := wordArgs) hrun rfl (selfPerform := fun _ t w => s.yieldCommand p t w)).trans
      (congrArg Host.Outcome.next (State.yieldCommand_switching h ho))
    refine ⟨fun hh => yields.trans (congrArg Host.Outcome.next ?_), fun hd => ?_, fun hd => ?_⟩
    · rw [State.yieldSwitching_superseded (higher_iff.mpr hh), supersedes]
    · subst hd; exact yields
    · subst hd
      refine yields.trans (congrArg Host.Outcome.next ?_)
      rw [← State.storeWord_some]
      rfl
  case wait =>
    intro r gives listed
    have waits := (hc.selfPerforms hrun (waitArgs_some hch htime hmax)
      (selfPerform := fun c t a => s.waitCommand p t (c.arg 0) a)).trans
        (congrArg Host.Outcome.next (State.waitCommand_switching h ho _))
    have unsatisfied (hno : ¬ gives ∨ d = .free) : ¬ ((s.channel ch).givesUnit = true ∧ d ≠ .free) :=
      fun ⟨hg, hd⟩ => hno.elim (fun hg' => hg' (Channel.givesUnit_iff.mp hg)) hd
    refine ⟨fun hg hd => waits.trans (congrArg Host.Outcome.next ?_), fun hno hh => waits.trans (congrArg Host.Outcome.next ?_),
      fun hno hh => waits.trans (congrArg Host.Outcome.next ?_)⟩
    · refine (if_pos ⟨Channel.givesUnit_iff.mpr hg, hd⟩).trans ?_
      rw [State.waitSatisfied, State.signal_eq]
      rfl
    · exact (if_neg (unsatisfied hno)).trans ((if_pos (higher_iff.mpr hh)).trans supersedes)
    · refine (if_neg (unsatisfied (.inl hno))).trans ((if_neg fun hs => hh (higher_iff.mp hs)).trans ?_)
      rw [replaces, State.enlist_storeWord]
  case delay =>
    have delays := (hc.selfPerforms hrun (delayArgs_some hticks hmin hmax)
      (selfPerform := fun c t ticks => s.leaveBy p t (c.arg 0) (State.startDelay t ticks))).trans
        (congrArg Host.Outcome.next (State.leaveBy_switching h ho _))
    refine ⟨fun hh => delays.trans (congrArg Host.Outcome.next ?_), fun hh => delays.trans (congrArg Host.Outcome.next ?_)⟩
    · rw [if_pos (higher_iff.mpr hh), supersedes]
    · rw [if_neg fun hs => hh (higher_iff.mp hs), replaces, State.startDelay_storeWord]
  case finish =>
    have finishes := (hc.selfPerforms (args := wordArgs) hrun rfl
      (selfPerform := fun _ t w => s.leaveBy p t w (State.finish t))).trans
        (congrArg Host.Outcome.next (State.leaveBy_switching h ho _))
    refine ⟨fun hh => finishes.trans (congrArg Host.Outcome.next ?_),
      fun hh => finishes.trans (congrArg Host.Outcome.next ?_)⟩
    · rw [if_pos (higher_iff.mpr hh), supersedes]
    · rw [if_neg fun hs => hh (higher_iff.mp hs), replaces, State.finish_storeWord]

end Sys2Proof.Machine
end

section
/-!
PROOFS. The Frame Unit (O43 to O45, O47): CONFIGURE and the plan commands, frame starts, ticks and FSYNC.
-/

namespace Sys2Proof.Machine

/-! ### CONFIGURE and the plan commands (R148, R151 to R153) -/

section
variable {c : Captured} {f : FrameUnit}

theorem syncModeOf_code {v : Nat} {m : SyncMode} (h : v = m.code) : syncModeOf v = some m := by
  subst h; cases m <;> rfl

theorem positiveShortArg_some {x : Word} (h1 : 1 ≤ x.toNat) (h2 : x.toNat ≤ 65535) :
    positiveShortArg x = some (x.setWidth 16) := by
  rw [positiveShortArg, if_neg (Nat.one_le_iff_ne_zero.mp h1), shortArg_some x h2]

theorem positiveByteArg_some {x : Word} (h1 : 1 ≤ x.toNat) (h2 : x.toNat ≤ 255) :
    positiveByteArg x = some (x.setWidth 8) := by
  rw [positiveByteArg, if_neg (Nat.one_le_iff_ne_zero.mp h1), byteArg, if_pos (Nat.lt_succ_of_le h2)]

theorem tickPeriodArg_some {x : Word} (h1 : 1 ≤ x.toNat) (h2 : x.toNat ≤ 1000) :
    tickPeriodArg x = some (x.setWidth 16) := by
  rw [tickPeriodArg, if_pos h2, positiveShortArg_some h1 (h2.trans (by decide))]

theorem configArgs_some {mode : SyncMode} (h1 : 1 ≤ (c.arg 0).toNat) (h1' : (c.arg 0).toNat ≤ 1000)
    (h2 : 1 ≤ (c.arg 1).toNat) (h2' : (c.arg 1).toNat ≤ 255) (h3 : (c.arg 2).toNat = mode.code)
    (h4 : 1 ≤ (c.arg 3).toNat) (h4' : (c.arg 3).toNat ≤ 65535) :
    configArgs c = some ⟨(c.arg 0).setWidth 16, (c.arg 1).setWidth 8, mode, (c.arg 3).setWidth 16⟩ := by
  rw [configArgs, tickPeriodArg_some h1 h1', positiveByteArg_some h2 h2', syncModeOf_code h3, positiveShortArg_some h4 h4']
  rfl

theorem windowArgs_some {i : WindowIndex} {map : Vector MapEntry 8} (hi : (c.arg 0).toNat = i.val)
    (h1 : 1 ≤ (c.arg 1).toNat) (h2 : (c.arg 1).toNat ≤ 65535)
    (hmap : ∀ n : Pu, bits (c.arg 2) (8 * n.val) 8 = (map[n]).code) :
    windowArgs c = some (i, ⟨(c.arg 1).setWidth 16, map⟩) := by
  rw [windowArgs, asFin_some i hi, positiveShortArg_some h1 h2, mapArg_some hmap]
  rfl

/-- The standby bank is the one that is not active. -/
theorem FrameUnit.standby_a (h : f.active = .a) :
    f.standbyBank = f.bankB ∧ (∀ x, f.setStandby x = { f with bankB := x }) ∧ f.active.other.code = 1 := by
  have other : f.active.other = .b := by rw [h]; rfl
  refine ⟨?_, fun x => ?_, by rw [other]; rfl⟩
  · rw [FrameUnit.standbyBank, other]
    rfl
  · rw [FrameUnit.setStandby, other]
    rfl

theorem FrameUnit.standby_b (h : f.active = .b) :
    f.standbyBank = f.bankA ∧ (∀ x, f.setStandby x = { f with bankA := x }) ∧ f.active.other.code = 0 := by
  have other : f.active.other = .a := by rw [h]; rfl
  refine ⟨?_, fun x => ?_, by rw [other]; rfl⟩
  · rw [FrameUnit.standbyBank, other]
    rfl
  · rw [FrameUnit.setStandby, other]
    rfl

theorem FrameUnit.armRefusal_none {n : BitVec 8} (h : n = 0 ∨ f.standbyBank.count ≠ 0) : f.armRefusal n = none :=
  if_neg fun ⟨hn, hcount⟩ => h.elim hn fun hne => hne (Fin.ext hcount)

end

/-- Settles O43. -/
theorem configurationAndPlanAreWritten : Obligations.ConfigurationAndPlanAreWritten := by
  intro p c s
  refine ⟨fun mode hc h1 h1' h2 h2' h3 h4 h4' hst => ?configure, fun i map hc hi h1 h2 hmap hcd => ?window,
    fun n hc hn harm => ?arm⟩
  case configure =>
    refine (hc.performs (configArgs_some h1 h1' h2 h2' h3 h4 h4') (if_pos hst)).trans (congrArg Host.Outcome.next ?_)
    rw [State.configureCommand]
    dsimp only
    rw [low_setWidth (c.arg 0) (by omega), low_setWidth (c.arg 1) (by omega), low_toNat (c.arg 2) _ h3,
      low_setWidth (c.arg 3) (by omega)]
    rfl
  case window =>
    intro window
    have written := hc.performs (refusal := fun _ _ => s.frame.standbyRefusal)
      (perform := fun _ a => s.writeWindowCommand p a) (windowArgs_some hi h1 h2 hmap) (if_pos hcd)
    refine ⟨fun ha => written.trans (congrArg Host.Outcome.next ?_), fun hb => written.trans (congrArg Host.Outcome.next ?_)⟩
    · obtain ⟨hbank, hset, hcode⟩ := FrameUnit.standby_a ha
      rw [State.writeWindowCommand, hset, hbank, hcode]
      rfl
    · obtain ⟨hbank, hset, hcode⟩ := FrameUnit.standby_b hb
      rw [State.writeWindowCommand, hset, hbank, hcode]
      rfl
  case arm => exact hc.performs (framesArgs_some hn) (FrameUnit.armRefusal_none harm)

/-- Settles O44. -/
theorem setPlanLengthWritesTheStandbyCount : Obligations.SetPlanLengthWritesTheStandbyCount := by
  refine fun p c s hc => ⟨fun hcls => exec_protectRefused rfl hc hcls, fun hcls => ⟨fun hout => ?range, fun hin hcd => ?armed,
    fun n hn hcd => ?written⟩⟩
  case range => exact exec_rangeRefused rfl hc hcls (by simpa [outOfRange] using hout)
  case armed =>
    exact Issued.onlyAnswers (refusal := fun _ _ => s.frame.standbyRefusal)
      (perform := fun _ n => s.setPlanLengthCommand p n) ⟨hc, hcls⟩ (asFin_of_lt (Nat.lt_succ_of_le hin))
      (FrameUnit.standbyRefusal_some hcd) (by decide)
  case written =>
    have written := Issued.performs (args := countArgs) (refusal := fun _ _ => s.frame.standbyRefusal)
      (perform := fun _ n => s.setPlanLengthCommand p n) ⟨hc, hcls⟩ (asFin_some n hn) (if_pos hcd)
    refine ⟨fun ha => written.trans (congrArg Host.Outcome.next ?_), fun hb => written.trans (congrArg Host.Outcome.next ?_)⟩
    · obtain ⟨hbank, hset, hcode⟩ := FrameUnit.standby_a ha
      rw [State.setPlanLengthCommand, hset, hbank, hcode]
    · obtain ⟨hbank, hset, hcode⟩ := FrameUnit.standby_b hb
      rw [State.setPlanLengthCommand, hset, hbank, hcode]

/-! ### Frame starts and window starts (R157, R158, R164) -/

section
variable {s : State} {f : FrameUnit}

theorem FrameUnit.windowInForce_some (h : f.dispatching = true) :
    f.windowInForce = some f.activeBank.windows[f.windowIndex] := if_pos h

theorem FrameUnit.windowInForce_none (h : f.dispatching = false) : f.windowInForce = none :=
  if_neg (by rw [h]; decide)

theorem FrameUnit.startFrame_dispatching (f : FrameUnit) : f.startFrame.dispatching = true := rfl

/-- The re-evaluations of a start, by the window before it (R164, R167). -/
theorem windowRequests_some (old new : Window) :
    windowRequests (some old) (some new) =
      (([0, 1, 2, 3, 4, 5, 6, 7] : List Pu).filter fun q => old.map[q] ≠ new.map[q]).map
        fun q => .window q (some old.map[q]) := by
  rw [← all8_eq]
  rfl

theorem windowRequests_none (new : Option Window) :
    windowRequests none new = ([0, 1, 2, 3, 4, 5, 6, 7] : List Pu).map fun q => .window q none := by
  rw [← all8_eq]
  rfl

theorem State.startSchedule_free (h : s.frame.syncMode = .free) : s.startSchedule = s.frameStart := by
  simp only [State.startSchedule, h]

theorem State.startSchedule_sync (h : s.frame.syncMode = .sync) :
    s.startSchedule = { s with frame := { s.frame with state := .armed } } := by
  simp only [State.startSchedule, h]

theorem BankId.other_eq (id : BankId) : id.other = if id = .a then .b else .a := by cases id <;> rfl

end

/-- Settles O45. -/
theorem frameStartBringsWindowZeroIntoForce : Obligations.FrameStartBringsWindowZeroIntoForce := by
  intro s f active bank old window pus reEvaluations
  have hactive : (if f.countdown = 1 then f.active.other else f.active) = active := by rw [BankId.other_eq]
  have hbank : f.bank active = bank := f.bank_eq active
  have started : f.startFrame = { f with
      countdown := if f.countdown = 0 then 0 else f.countdown - 1, active := active
      frameCounter := f.frameCounter + 1, gapTicks := 0, state := .framing, windowIndex := 0
      ticksRemaining := window.length } := by
    unfold FrameUnit.startFrame
    dsimp only
    rw [hactive, hbank]
  have hnew : f.startFrame.windowInForce = some window := by
    rw [FrameUnit.windowInForce_some f.startFrame_dispatching, started]
    exact congrArg (fun b : Bank => some b.windows[0]) hbank
  have requests : windowRequests f.windowInForce f.startFrame.windowInForce = reEvaluations := by
    rw [hnew]
    by_cases hd : f.state = .framing ∨ f.state = .gap
    · rw [FrameUnit.windowInForce_some (FrameUnit.dispatching_iff.mpr hd), windowRequests_some]
      exact (if_pos hd).symm
    · rw [FrameUnit.windowInForce_none (Bool.eq_false_iff.mpr fun h => hd (FrameUnit.dispatching_iff.mp h)),
        windowRequests_none]
      exact (if_neg hd).symm
  have starts : s.frameStart = (State.request reEvaluations { s with frame := f.startFrame }).request [.budgetFrameStart] := by
    rw [← requests]
    rfl
  refine ⟨by rw [starts, started], fun p c hc hstopped htick hplan => ?_⟩
  have ready : f.planReady = true := FrameUnit.planReady_iff.mpr
    (hplan.imp Fin.pos_iff_ne_zero.mpr fun ⟨hm, hcd, hcount⟩ => ⟨hm, hcd, Fin.pos_iff_ne_zero.mpr hcount⟩)
  have begun : exec (.startSchedule p) s = .next (s.startScheduleCommand p) :=
    hc.performs (x := ()) rfl (if_pos ⟨hstopped, htick, ready⟩)
  refine ⟨fun hm => begun.trans (congrArg Host.Outcome.next ?_), fun hm => begun.trans (congrArg Host.Outcome.next ?_)⟩
  · have schedule : s.startSchedule = s.frameStart := State.startSchedule_free hm
    have framing : s.frameStart.frame.state = .framing := by
      rw [starts, State.request_frame, State.request_frame]
      rfl
    rw [State.startScheduleCommand, schedule, framing]
    rfl
  · have schedule : s.startSchedule = { s with frame := { f with state := .armed } } := State.startSchedule_sync hm
    rw [State.startScheduleCommand, schedule]
    rfl

/-! ### Ticks and FSYNC (R158 to R160) -/

section
variable {s : State}

theorem State.takeFrameTick_resting (h : s.frame.state = .stopped ∨ s.frame.state = .armed) : s.takeFrameTick = s := by
  rcases h with h | h <;> simp only [State.takeFrameTick, h]

theorem FrameUnit.nextWindow_eq {f : FrameUnit} {i : WindowIndex} (hi : i.val = f.windowIndex.val + 1)
    (hlt : i.val < f.activeBank.count.val) : f.nextWindow = some i := by
  rw [FrameUnit.nextWindow, if_pos (hi ▸ hlt), asFin_some i hi.symm]

theorem FrameUnit.nextWindow_last {f : FrameUnit} (h : f.activeBank.count.val ≤ f.windowIndex.val + 1) :
    f.nextWindow = none := if_neg (Nat.not_lt.mpr h)

theorem State.windowEnds_next {i : WindowIndex} (h : s.frame.nextWindow = some i) : s.windowEnds = s.windowStart i := by
  simp only [State.windowEnds, h]

theorem State.windowEnds_free (h : s.frame.nextWindow = none) (hm : s.frame.syncMode = .free) :
    s.windowEnds = s.frameStart := by
  simp only [State.windowEnds, h, hm]

theorem State.windowEnds_sync (h : s.frame.nextWindow = none) (hm : s.frame.syncMode = .sync) :
    s.windowEnds = { s with frame := { s.frame with state := .gap, gapTicks := 0 } } := by
  simp only [State.windowEnds, h, hm]

/-- A window start within a running frame asks for the PUs whose entry differs. -/
theorem State.windowStart_eq (h : s.frame.dispatching = true) (i : WindowIndex) :
    s.windowStart i =
      State.request
        ((([0, 1, 2, 3, 4, 5, 6, 7] : List Pu).filter fun q =>
            (s.frame.activeBank.windows[s.frame.windowIndex]).map[q] ≠ (s.frame.activeBank.windows[i]).map[q]).map
          fun q => .window q (some (s.frame.activeBank.windows[s.frame.windowIndex]).map[q]))
        { s with frame :=
          { s.frame with windowIndex := i, ticksRemaining := (s.frame.activeBank.windows[i]).length } } := by
  have after : FrameUnit.windowInForce
      { s.frame with windowIndex := i, ticksRemaining := (s.frame.activeBank.windows[i]).length } =
        some s.frame.activeBank.windows[i] := FrameUnit.windowInForce_some h
  unfold State.windowStart
  dsimp only
  rw [after, FrameUnit.windowInForce_some h, windowRequests_some]

theorem State.takeFsync_free (h : s.frame.syncMode ≠ .sync) : s.takeFsync = s := if_neg h

theorem State.takeFsync_stopped (hst : s.frame.state = .stopped) : s.takeFsync = s := by
  simp only [State.takeFsync, hst, ite_self]

theorem State.takeFsync_starts (h : s.frame.syncMode = .sync) (hst : s.frame.state = .armed ∨ s.frame.state = .gap) :
    s.takeFsync = s.frameStart := by
  rcases hst with hst | hst <;> simp only [State.takeFsync, h, if_true, hst]

theorem State.takeFsync_early (h : s.frame.syncMode = .sync) (hst : s.frame.state = .framing) :
    s.takeFsync =
      (({ s with frame := { s.frame with earlySync := satInc s.frame.earlySync } }).latch .earlySync).frameStart := by
  simp only [State.takeFsync, h, if_true, hst]

end

/-- Settles O47. -/
theorem ticksAndSyncEdgesDriveTheFrame : Obligations.TicksAndSyncEdgesDriveTheFrame := by
  intro s f holding last
  refine ⟨State.takeFrameTick_resting, fun hst => ?framing, fun hst => ?gap, fun rest h => ?rows, fun level => ?fsync⟩
  case framing =>
    have table := s.takeFrameTick_framing hst
    dsimp only at table
    have ends (hone : f.ticksRemaining = 1) : s.takeFrameTick = (holding { f with ticksRemaining := 0 }).windowEnds := by
      have zero : s.frame.ticksRemaining - 1 = 0 := by rw [show s.frame.ticksRemaining = 1 from hone]; rfl
      rw [table, if_pos zero, zero]
    refine ⟨fun hne => table.trans (if_neg (tick_ne hne)), fun i hone hi hlt => ?_, fun hone hlast hm => ?_,
      fun hone hlast hm => ?_⟩
    all_goals let expired : State := holding { f with ticksRemaining := 0 }
    · have next : FrameUnit.nextWindow { f with ticksRemaining := 0 } = some i := FrameUnit.nextWindow_eq hi hlt
      have running : FrameUnit.dispatching { f with ticksRemaining := 0 } = true := FrameUnit.dispatching_iff.mpr (.inl hst)
      exact (ends hone).trans
        ((State.windowEnds_next (s := expired) next).trans (State.windowStart_eq (s := expired) running i))
    all_goals have none : FrameUnit.nextWindow { f with ticksRemaining := 0 } = none := FrameUnit.nextWindow_last hlast
    · exact (ends hone).trans (State.windowEnds_free (s := expired) none hm)
    · exact (ends hone).trans (State.windowEnds_sync (s := expired) none hm)
  case gap =>
    have table := s.takeFrameTick_gap hst
    exact ⟨fun hne => table.trans (if_neg hne), fun hlimit => table.trans (if_pos hlimit)⟩
  case rows =>
    obtain ⟨hr, hnext⟩ := h
    refine ⟨fun hst => ⟨?_, ?_⟩, fun hst => ⟨?_, ?_⟩⟩
    · exact congrArg Host.Outcome.next ((State.awake_high hr).trans ((if_neg hst).trans (State.takeRequest_some hnext)))
    · exact congrArg Host.Outcome.next ((State.awake_high hr).trans (if_neg hst))
    · exact congrArg Host.Outcome.next ((State.awake_high hr).trans ((if_pos hst).trans (State.takeRequest_some hnext)))
    · exact congrArg Host.Outcome.next ((State.awake_high hr).trans (if_pos hst))
  case fsync =>
    intro s1 edge
    have taken (h : edge) : exec (.fsyncEdge level) s = .next s1.takeFsync := by
      obtain ⟨hr, hlow, hlevel, -⟩ := h
      exact congrArg Host.Outcome.next (if_pos ⟨hr, hlow, hlevel⟩)
    have mode (h : edge) : s1.frame.syncMode = .sync := by
      obtain ⟨-, -, -, hm⟩ := h
      exact hm
    refine ⟨fun h => ?_, fun h hst => (taken h).trans (congrArg _ (State.takeFsync_starts (mode h) hst)),
      fun h hst => (taken h).trans (congrArg _ (State.takeFsync_early (mode h) hst))⟩
    by_cases he : s.pins.resetLow = false ∧ s.pins.fsync = false ∧ level = true
    · refine congrArg Host.Outcome.next ((if_pos he).trans ?_)
      by_cases hm : s1.frame.syncMode = .sync
      · obtain ⟨hr, hlow, hlevel⟩ := he
        exact State.takeFsync_stopped (h.resolve_left fun hno => hno ⟨hr, hlow, hlevel, hm⟩)
      · exact State.takeFsync_free hm
    · exact congrArg Host.Outcome.next (if_neg he)

end Sys2Proof.Machine
end

section
/-!
PROOFS. The tick and its owners, the charge, SET_BUDGET and the frame start of the Budget Monitor (O48 to O50).
-/

namespace Sys2Proof.Machine

/-! ### The tick (R149, log 4) -/

section
variable {s : State} {held : List TickPart} {part : TickPart}

/-- A part that is held or acts is left to its own row. -/
theorem State.deliverTick_left (h : part ∈ held ∨ s.tickActs part = true) :
    s.deliverTick held part = s.request [tickRequest s.frame.tickCounter part] :=
  if_pos (by simpa [List.contains_iff_mem] using h)

theorem State.deliverTick_taken (h : ¬ (part ∈ held ∨ s.tickActs part = true)) :
    s.deliverTick held part = s.takeTickPart part :=
  if_neg (by simpa [List.contains_iff_mem] using h)

theorem FrameUnit.tickEnds_iff {f : FrameUnit} :
    f.tickEnds = true ↔ (f.state = .framing ∧ f.ticksRemaining = 1) ∨ (f.state = .gap ∧ f.gapTicks + 1 = f.gapLimit) := by
  unfold FrameUnit.tickEnds
  cases f.state <;> simp

theorem State.dueEntries_eq_nil {counter : BitVec 32} :
    s.dueEntries counter = [] ↔ ¬ ∃ t ∈ s.delayList, (counter - s.wakeOf t).toNat < 2 ^ 31 := by
  simp [State.dueEntries, List.filter_eq_nil_iff, dueAt]

theorem State.delayActs_iff :
    s.tickActs .delay = true ↔ ∃ t ∈ s.delayList, (s.frame.tickCounter - s.wakeOf t).toNat < 2 ^ 31 := by
  rw [← not_iff_not, ← State.dueEntries_eq_nil]
  simp [State.tickActs]

theorem tickParts_eq :
    tickParts = [.frame, .delay, .charge 0, .charge 1, .charge 2, .charge 3, .charge 4, .charge 5, .charge 6, .charge 7] := by
  rw [tickParts, all8_eq]
  rfl

/-- With no entry due the Delay List takes a tick without a change. -/
theorem State.takeDelayTick_none {counter : BitVec 32} (h : s.dueEntries counter = []) : s.takeDelayTick counter = s := by
  rw [State.takeDelayTick, h, State.wakeAll_nil]

end

/-- Settles O48. -/
theorem tickReachesItsOwners : Obligations.TickReachesItsOwners := by
  intro s held parts
  have frame_iff : s.tickActs .frame = true ↔ _ := FrameUnit.tickEnds_iff
  refine ⟨fun hr hp => ?stopped, fun hr hp => ?ticks, fun h => ?frameLeft, fun h => ?frameTaken, ?delay,
    fun q => ⟨State.deliverTick_left, State.deliverTick_taken⟩⟩
  case stopped => exact congrArg Host.Outcome.next ((State.awake_high hr).trans (if_pos hp))
  case ticks =>
    refine congrArg Host.Outcome.next ((State.awake_high hr).trans ((if_neg hp).trans ?_))
    rw [tickParts_eq]
    rfl
  case frameLeft => exact State.deliverTick_left (h.imp_right frame_iff.mpr)
  case frameTaken => exact State.deliverTick_taken fun h' => h (h'.imp_right frame_iff.mp)
  case delay =>
    intro due
    refine ⟨fun h => State.deliverTick_left (h.imp_right State.delayActs_iff.mpr), fun h => ?_⟩
    have nothing : s.dueEntries s.frame.tickCounter = [] := State.dueEntries_eq_nil.mpr fun hdue => h (.inr hdue)
    exact (State.deliverTick_taken fun h' => h (h'.imp_right State.delayActs_iff.mp)).trans (State.takeDelayTick_none nothing)

/-! ### The charge (R173 to R178) -/

section
variable (s : State) (t : TaskId)

theorem State.setTask_same : s.setTask t (s.task t) = s := by
  rw [State.setTask_same_counts s t _ rfl rfl]
  exact congrArg (fun v => { s with tasks := v }) (put_get s.tasks t)

/-- The record after the warn test (R175). -/
def TaskRecord.warned (r : TaskRecord) : TaskRecord := { r with warnFlag := r.warnFlag || r.warns }

/-- The record after the limit test (R176 (a) to (c)). -/
def TaskRecord.marked (r : TaskRecord) : TaskRecord :=
  { r with
    limitMark := r.limitMark || r.limits, overrunCount := if r.limits then satInc r.overrunCount else r.overrunCount }

theorem State.warnTest_eq :
    s.warnTest t =
      if (s.task t).warns then (s.setTask t (s.task t).warned).latch .budgetWarn else s.setTask t (s.task t).warned := by
  rw [State.warnTest, State.modTask_eq, TaskRecord.warned]
  cases (s.task t).warns with
  | true => simp
  | false =>
    simp only [Bool.false_eq_true, if_false, Bool.or_false]
    exact (s.setTask_same t).symm

/-- The state in which the action of a limit is taken, if one is. -/
def State.limitMarked (t : TaskId) (s : State) : State :=
  if (s.task t).limits then (s.setTask t (s.task t).marked).latch .budgetLimit else s.setTask t (s.task t).marked

theorem State.limitTest_eq (p : Pu) :
    s.limitTest p t = if (s.task t).limits then (s.limitMarked t).budgetAction p t else s.limitMarked t := by
  rw [State.limitTest, State.limitMarked, TaskRecord.marked, State.markLimit, State.modTask_eq]
  cases (s.task t).limits with
  | true => simp
  | false =>
    simp only [Bool.false_eq_true, if_false, Bool.or_false]
    exact (s.setTask_same t).symm

/-- Both tests of a charge write the record once, and latch what they found. -/
theorem State.charged_tests (r : TaskRecord) (hst : r.state = (s.task t).state) (hk : r.partition = (s.task t).partition) :
    ((s.setTask t r).warnTest t).limitMarked t =
      let s1 := s.setTask t r.warned.marked
      let s2 := if r.warns then s1.latch .budgetWarn else s1
      if r.limits then s2.latch .budgetLimit else s2 := by
  have limits : r.warned.limits = r.limits := rfl
  have once : (s.setTask t r).setTask t r.warned = s.setTask t r.warned := s.setTask_setTask t r r.warned hst hk
  have twice : (s.setTask t r.warned).setTask t r.warned.marked = s.setTask t r.warned.marked :=
    s.setTask_setTask t r.warned r.warned.marked hst hk
  rw [State.warnTest_eq, State.task_setTask_same, once]
  cases r.warns <;>
    simp only [Bool.false_eq_true, if_false, if_true, State.limitMarked, State.latch_task_read, State.task_setTask_same,
      State.latch_setTask, twice, limits]

theorem State.warnTest_limits : ((s.warnTest t).task t).limits = (s.task t).limits := by
  have limits : (s.task t).warned.limits = (s.task t).limits := rfl
  rw [State.warnTest_eq]
  split
  · rw [State.latch_task_read, State.task_setTask_same, limits]
  · rw [State.task_setTask_same, limits]

end

section
variable {s : State} {p : Pu} {t : TaskId}

theorem State.charge_none (h : (s.engine p).runningTask = none) : s.charge p = s := by
  simp only [State.charge, h]

theorem State.charge_some (h : (s.engine p).runningTask = some t) :
    s.charge p =
      if (s.task t).charged.limits then
        (((s.setTask t (s.task t).charged).warnTest t).limitMarked t).budgetAction p t
      else ((s.setTask t (s.task t).charged).warnTest t).limitMarked t := by
  simp only [State.charge, h]
  rw [State.modTask_eq, State.limitTest_eq, State.warnTest_limits, State.task_setTask_same]

end

/-- Settles O49: the charge writes one record, latches what its tests found, and takes the action of a limit. -/
theorem chargeTestsTheThresholds : Obligations.ChargeTestsTheThresholds := by
  intro s p
  refine ⟨State.charge_none, fun t ht => ?charges, fun rest h => congrArg Host.Outcome.next (h.takes _)⟩
  case charges =>
    intro r used warns limits s1 s2 s3
    have hused : r.charged.budgetUsed = used := satInc_16 r.budgetUsed
    have hwarns : r.charged.warns = warns := by rw [TaskRecord.warns_eq, hused]; rfl
    have hlimits : r.charged.limits = limits := by rw [TaskRecord.limits_eq, hused]; rfl
    have record : r.charged.warned.marked =
        { r with
          budgetUsed := used, warnFlag := r.warnFlag || warns, limitMark := r.limitMark || limits
          overrunCount := if limits then satInc r.overrunCount else r.overrunCount } := by
      rw [← hwarns, ← hlimits, ← hused]
      rfl
    have tested : ((s.setTask t r.charged).warnTest t).limitMarked t = s3 := by
      rw [State.charged_tests s t r.charged rfl rfl, record, hwarns, hlimits]
    have charged := State.charge_some ht
    rw [show (s.task t).charged.limits = limits from hlimits, tested] at charged
    have task : s3.task t = { r with
        budgetUsed := used, warnFlag := r.warnFlag || warns, limitMark := r.limitMark || limits
        overrunCount := if limits then satInc r.overrunCount else r.overrunCount } := by
      have h3 : s3.task t = s2.task t := by dsimp only [s3]; split <;> rfl
      have h2 : s2.task t = s1.task t := by dsimp only [s2]; split <;> rfl
      rw [h3, h2]
      exact s.task_setTask_same t _
    have action : (s3.task t).budgetAction = r.budgetAction := by rw [task]
    have partition : (s3.task t).partition = r.partition := by rw [task]
    refine ⟨fun hno => ?_, fun hyes => ?_, ?_⟩
    · rw [charged, hno]
      rfl
    · rw [hyes, if_pos rfl] at charged
      refine ⟨fun ha => ?_, fun ha => ?_, fun ha => ?_, fun ha => ?_⟩
      all_goals
        rw [charged, State.budgetAction, action, ha]
      · rw [partition]
    · rw [State.chargeActs, ht]
      exact hlimits

/-! ### SET_BUDGET and the frame start (R180, R183) -/

/-- Settles O50. -/
theorem budgetsAreSetAndRenewed : Obligations.BudgetsAreSetAndRenewed := by
  intro s
  refine ⟨fun p c t action hc ht h1 h2 hle ha hst => ?set, fun rest h => congrArg Host.Outcome.next (h.takes _)⟩
  case set =>
    refine (hc.performs (budgetArgs_some t action ht.named h1 h2 ha hle)
      (State.taskRefusal_none ht.scope (by simpa using hst))).trans (congrArg Host.Outcome.next ?_)
    rw [State.setBudgetCommand, State.modTask_eq]
    rfl

end Sys2Proof.Machine
end

section
/-!
PROOFS. STOP_SCHEDULE (O46): what one engine does, and what the engines leave after their turns.
-/

namespace Sys2Proof.Machine

/-! ### One engine takes a STOP request (R163) -/

section
variable {s : State} {p q : Pu} {t u : TaskId} {sw : Switch}

/-- The switch after a STOP request: without its claim and a pending push. -/
def Switch.stopped (sw : Switch) : Switch :=
  { sw with
    claimed := none
    outgoing := sw.outgoing.map fun o => if o.dest = .displaced then ⟨o.task, .readyHead⟩ else o }

theorem State.stopEngine_running (h : (s.engine p).st = .running t) :
    s.stopEngine p = (s.beginSwitch p .stop .readyHead).stopReturns p (s.engine p).stack := by
  simp only [State.stopEngine, h]

theorem State.stopEngine_switching (h : (s.engine p).st = .switching sw) :
    s.stopEngine p = ((s.returnClaim p).dropPush p).stopReturns p (sw.claimed.toList ++ (s.engine p).stack) := by
  simp only [State.stopEngine, h, Engine.held, Engine.claimedTask_switching h]

theorem State.stopEngine_resting (h : (s.engine p).working = false) : s.stopEngine p = s := by
  unfold State.stopEngine
  split
  · rename_i hst; simp [Engine.working, hst] at h
  · rename_i hst; simp [Engine.working, hst] at h
  · rfl

theorem Engine.working_iff {e : Engine} :
    e.working = true ↔ (∃ t, e.st = .running t) ∨ ∃ sw, e.st = .switching sw := by
  unfold Engine.working
  cases e.st <;> simp

/-- The engine of a SWITCHING PU that returned its claim, if it had one. -/
theorem State.returnClaim_switching (h : (s.engine p).st = .switching sw) :
    (s.returnClaim p).engine p = { s.engine p with st := .switching { sw with claimed := none } } := by
  cases hc : sw.claimed with
  | none =>
    have keep : { sw with claimed := none } = sw := by rw [← hc]
    rw [State.returnClaim_empty (by rw [Engine.claimedTask_switching h, hc]), keep, ← h]
  | some c => rw [State.returnClaim_eq h hc, State.enterQueue_engine, State.setTask_engine_read, State.engine_setEngine_same]

theorem State.dropPush_engine (h : (s.engine p).st = .switching sw) (hc : sw.claimed = none) :
    (s.dropPush p).engine p = { s.engine p with st := .switching sw.stopped } := by
  obtain ⟨reason, outgoing, claimed, limit, remaining⟩ := sw
  cases hc
  unfold State.dropPush
  rw [Engine.pendingDest_switching h]
  split
  · rename_i hd
    obtain ⟨⟨o, d⟩, ho, hdest⟩ := Option.map_eq_some_iff.mp hd
    cases ho; cases hdest
    rw [State.modSwitch_switching h, State.engine_setEngine_same]
    rfl
  · rename_i hd
    have same : (outgoing.map fun o => if o.dest = .displaced then ⟨o.task, .readyHead⟩ else o) = outgoing := by
      cases outgoing with
      | none => rfl
      | some o => exact congrArg some (if_neg fun ho => hd (congrArg some ho))
    rw [Switch.stopped]
    dsimp only
    rw [same, ← h]

theorem State.stopReturns_engine (s : State) (p : Pu) (l : List TaskId) :
    (s.stopReturns p l).engine p = { s.engine p with stack := [] } := by
  rw [State.stopReturns, State.request_engine_read, State.emptyStack_engine]

theorem State.stopEngine_running_engine (h : (s.engine p).st = .running t) :
    (s.stopEngine p).engine p = { s.engine p with
      st := .switching ⟨.stop, some ⟨t, .readyHead⟩, none, s.frame.handoverLimit, s.frame.handoverLimit⟩, stack := []
      swreqRises := (s.engine p).swreqRises + 1 } := by
  rw [State.stopEngine_running h, State.stopReturns_engine, State.beginSwitch_running h, State.engine_setEngine_same]

theorem State.stopEngine_switching_engine (h : (s.engine p).st = .switching sw) :
    (s.stopEngine p).engine p = { s.engine p with stack := [], st := .switching sw.stopped } := by
  have returned := State.returnClaim_switching h
  rw [State.stopEngine_switching h, State.stopReturns_engine,
    State.dropPush_engine (congrArg Engine.st returned) rfl, returned]
  rfl

/-! ### What a STOP request makes READY -/

theorem State.returnClaim_state (s : State) (p : Pu) (u : TaskId) :
    ((s.returnClaim p).task u).state = if (s.engine p).claimedTask = some u then .ready else (s.task u).state := by
  unfold State.returnClaim
  split
  · rename_i c hc
    rw [State.makeReady_state, hc]
    simp [State.modSwitch]
  · rename_i hc
    rw [hc]
    rfl

theorem State.emptyStack_state (s : State) (p : Pu) (u : TaskId) :
    ((s.emptyStack p).task u).state = if u ∈ (s.engine p).stack then .ready else (s.task u).state := by
  rw [State.emptyStack, makeAllReady_state, State.setStack_eq, State.setEngine_task_read]

theorem State.stopReturns_state (s : State) (p : Pu) (l : List TaskId) (u : TaskId) :
    ((s.stopReturns p l).task u).state = if u ∈ (s.engine p).stack then .ready else (s.task u).state := by
  rw [State.stopReturns, State.request_task_read, State.emptyStack_state]

theorem State.dropPush_task (s : State) (p : Pu) (u : TaskId) : (s.dropPush p).task u = s.task u := by
  unfold State.dropPush
  split
  · simp [State.modSwitch]
  · rfl

/-- A task that one engine gives up is READY, and no other state changes. -/
theorem State.stopEngine_state (s : State) (p : Pu) (u : TaskId) :
    ((s.stopEngine p).task u).state =
      if (s.engine p).working = true ∧ (u ∈ (s.engine p).stack ∨ (s.engine p).claimedTask = some u) then .ready
      else (s.task u).state := by
  by_cases hw : (s.engine p).working = true
  · rcases Engine.working_iff.mp hw with ⟨t, ht⟩ | ⟨sw, hsw⟩
    · have unclaimed : (s.engine p).claimedTask = none := by simp [Engine.claimedTask, ht]
      rw [State.stopEngine_running ht, State.stopReturns_state, State.beginSwitch_running ht]
      simp [hw, unclaimed]
    · have returned := State.returnClaim_switching hsw
      have stack : (((s.returnClaim p).dropPush p).engine p).stack = (s.engine p).stack := by
        rw [State.dropPush_engine (congrArg Engine.st returned) rfl, returned]
      rw [State.stopEngine_switching hsw, State.stopReturns_state, stack, State.dropPush_task, State.returnClaim_state]
      by_cases hu : u ∈ (s.engine p).stack <;> simp [hw, hu]
  · rw [State.stopEngine_resting (Bool.not_eq_true _ ▸ hw), if_neg fun h => hw h.1]

/-- What any of several engines gives up is READY after the last of them. -/
theorem stopAll_ready (l : List Pu) :
    ∀ s : State, l.Nodup →
      (s.task u).state = .ready ∨
        (∃ q ∈ l, (s.engine q).working = true ∧ (u ∈ (s.engine q).stack ∨ (s.engine q).claimedTask = some u)) →
      ((l.foldl (fun (x : State) q => x.stopEngine q) s).task u).state = .ready := by
  induction l with
  | nil =>
    rintro s - (h | ⟨q, hq, -⟩)
    · exact h
    · cases hq
  | cons p l ih =>
    intro s hl h
    obtain ⟨hp, hl⟩ := List.nodup_cons.mp hl
    refine ih _ hl ?_
    rw [State.stopEngine_state]
    rcases h with h | ⟨q, hq, hgives⟩
    · exact .inl (by rw [h, ite_self])
    · rcases List.mem_cons.mp hq with rfl | hq
      · exact .inl (if_pos hgives)
      · have other : (s.stopEngine p).engine q = s.engine q :=
          (Local.refl.stopEngine).engine q fun hqp => hp (hqp ▸ hq)
        exact .inr ⟨q, hq, other ▸ hgives⟩

end

/-! ### STOP_SCHEDULE (R162, R163) -/

section
variable {s : State}

/-- The engines that take a STOP request, in the order they take it. -/
def State.stopOrder (s : State) : List Pu := engineOrder s.freeIndex (all8.filter fun p => (s.engine p).working)

/-- The schedule is stopped; no engine has taken the request yet. -/
def State.stopBegun (s : State) : State := { s with frame := s.frame.stop, freeIndex := s.freeIndex + 1 }

theorem State.stopSchedule_eq (s : State) :
    s.stopSchedule = s.stopOrder.foldl (fun (x : State) q => x.stopEngine q) s.stopBegun := rfl

theorem State.stopOrder_nodup : s.stopOrder.Nodup := (engineOrder_perm _ _).nodup_iff.mpr (all8_nodup.filter _)

theorem State.mem_stopOrder {q : Pu} : q ∈ s.stopOrder ↔ (s.engine q).working = true := by
  rw [State.stopOrder, (engineOrder_perm _ _).mem_iff, List.mem_filter]
  simp [mem_all8]

/-- What the engines leave of everything but tasks and queues. -/
theorem State.stopSchedule_spec (s : State) :
    let t := s.stopSchedule
    t.frame = s.frame.stop ∧ t.ports = s.ports ∧ t.channels = s.channels ∧ t.delayList = s.delayList ∧ t.conds = s.conds ∧
      ∀ q,
        (∀ u, (s.engine q).st = .running u →
          t.engine q = { s.engine q with
            st := .switching ⟨.stop, some ⟨u, .readyHead⟩, none, s.frame.handoverLimit, s.frame.handoverLimit⟩, stack := []
            swreqRises := (s.engine q).swreqRises + 1 }) ∧
        (∀ sw, (s.engine q).st = .switching sw →
          t.engine q = { s.engine q with stack := [], st := .switching sw.stopped }) ∧
        ((s.engine q).working = false → t.engine q = s.engine q) := by
  intro t
  obtain ⟨moves, hchannels, hdelay, hconds, -, hothers, hturn⟩ :=
    eachEngine_spec State.stopEngine (fun _ _ => Local.refl.stopEngine) (fun _ _ => (Moves.refl _).stopEngine _)
      s.stopOrder State.stopOrder_nodup s.stopBegun
  rw [← State.stopSchedule_eq] at moves hchannels hdelay hconds hothers hturn
  have turn {q : Pu} (hq : (s.engine q).working = true) :
      ∃ x : State, x.frame = s.frame.stop ∧ x.engine q = s.engine q ∧ t.engine q = (x.stopEngine q).engine q := by
    obtain ⟨x, mx, hengine, -, hturned⟩ := hturn q (State.mem_stopOrder.mpr hq)
    exact ⟨x, mx.frame, hengine, hturned⟩
  refine ⟨moves.frame, moves.ports, hchannels, hdelay, hconds, fun q => ⟨fun u hu => ?_, fun sw hsw => ?_, fun hrest => ?_⟩⟩
  · obtain ⟨x, hframe, hengine, hturned⟩ := turn (Engine.working_iff.mpr (.inl ⟨u, hu⟩))
    rw [hturned, State.stopEngine_running_engine (hengine ▸ hu), hframe, hengine]
    rfl
  · obtain ⟨x, hframe, hengine, hturned⟩ := turn (Engine.working_iff.mpr (.inr ⟨sw, hsw⟩))
    rw [hturned, State.stopEngine_switching_engine (hengine ▸ hsw), hengine]
  · exact hothers q fun hq => absurd (State.mem_stopOrder.mp hq) (by rw [hrest]; decide)

end

theorem exec_stopSchedule {p : Pu} {c : Captured} {s : State} (hc : Issued s p 30 .supervisor c)
    (h : s.frame.state ≠ .stopped) :
    exec (.stopSchedule p) s = .next (s.stopSchedule.answer p [low s.frame.state.code]) :=
  hc.performs (x := ()) rfl (if_neg h)

/-- Settles O46. -/
theorem stopScheduleSwitchesEveryPuOut : Obligations.StopScheduleSwitchesEveryPuOut := by
  refine ⟨fun p c s hc h => ⟨_, exec_stopSchedule hc h, ?_⟩, fun p c s hc h => ⟨s.stopOrder, State.stopOrder_nodup,
    fun q => State.mem_stopOrder, exec_stopSchedule hc h⟩, fun x q => ⟨fun u hu => ?running, fun sw hsw => ?switching,
    State.stopEngine_resting⟩⟩
  · obtain ⟨hframe, hports, hchannels, hdelay, hconds, hengines⟩ := s.stopSchedule_spec
    have port : s.stopSchedule.port p = s.port p := by unfold State.port; rw [hports]
    rw [State.answer_eq]
    refine ⟨hframe, ?_, hchannels, hdelay, hconds, fun q => ?_⟩
    · rw [port, State.answer_eq]
      exact congrArg (fun v => put v p _) hports
    · obtain ⟨hrunning, hswitching, hresting⟩ := hengines q
      exact ⟨hrunning, hswitching, hresting, fun u hw hgives =>
        stopAll_ready s.stopOrder s.stopBegun State.stopOrder_nodup (.inr ⟨q, State.mem_stopOrder.mpr hw, hw, hgives⟩)⟩
  case running => rw [State.stopEngine_running hu, State.beginSwitch_running hu, State.stopReturns]
  case switching =>
    intro back kept
    have pending : (back.engine q).pendingDest = sw.outgoing.map Outgoing.dest :=
      Engine.pendingDest_switching (sw := { sw with claimed := none }) (congrArg Engine.st (State.returnClaim_switching hsw))
    have dropped : back.dropPush q = kept := by
      rw [State.dropPush, pending]
      rfl
    rw [State.stopEngine_switching hsw, dropped, State.stopReturns]

end Sys2Proof.Machine
end
